-- ==== Sys2Proof/Word.lean ====
section
/-! DEFINITION. The words of the block: every port is 32 bits wide and carries whole words (R72). -/

namespace Sys2Proof

/-- A port word (R72, R90). -/
abbrev Word := BitVec 32

/-- A node index (R60). -/
abbrev NodeIdx := BitVec 12

/-- A LUT index (R64). -/
abbrev LutIdx := BitVec 10

/-- A symbol, `SYM_W` = 16 bits (R7). -/
abbrev Symbol := BitVec 16

end Sys2Proof
end

