-- ==== Sys2Proof/Config.lean ====
section
/-! DEFINITION. What an implementation fixes: the fixed parameters of R7, the open parameters of R8, and the free
choices the spec leaves to the hardware (logs 3, 4, 5, 6, 20 and 21). An `opaque` constant has no value in any proof. -/

namespace Sys2Proof

/-- `NODE_N`, the number of node memory entries (R7). -/
def Config.nodeN : Nat := 4096

/-- `LUT_N`, the number of LUT entries (R7). -/
def Config.lutN : Nat := 1024

/-- `K_MAX`, the largest legal LUT width (R7). -/
def Config.kMax : Nat := 10

/-- `MAX_CODE_LEN`, the longest codeword the walker accepts (R7). -/
def Config.maxCodeLen : Nat := 4095

/-- `PUSH_MAX`, the most bits one PUSHB carries (R7). -/
def Config.pushMax : Nat := 16

/-- The ID word "HDW1" (R2, R38). -/
def Config.idWord : Word := 0x48445731

/-- How far `BITQ_DEPTH` exceeds its least value 16: open (R8, log 6). -/
opaque Config.bitqSpare : Nat

/-- `BITQ_DEPTH`, the capacity of the pending-bit queue, at least 16 (R8). -/
def Config.bitqDepth : Nat := Config.bitqSpare + 16

/-- How far `OUTQ_DEPTH` exceeds its least value 1: open (R8, log 6). -/
opaque Config.outqSpare : Nat

/-- `OUTQ_DEPTH`, the capacity of the output queue, at least 1 (R8). -/
def Config.outqDepth : Nat := Config.outqSpare + 1

/-- `RESET_READY_CYCLES`, the most cycles for which `cmd_ready` stays 0 after a reset: open (R8, R244, log 21). -/
opaque Config.resetReadyCycles : Nat

/-- Free choice number `n`: how many of the cycles after a reset have passed when the host first offers a word (R244;
log 21). -/
opaque Config.readyPassed : Nat → Nat

/-- What BITQ_LEVEL or OUTQ_LEVEL reads where the queue holds `n` entries and `n` is no 32-bit number: open (R44 with R8,
log 20). -/
opaque Config.levelBeyond : Nat → Word

/-- Free choice number `n`: where the host's next action and another move can both happen, whether the host's comes first
(R46, R252, R254; log 4). -/
opaque Config.hostFirst : Nat → Bool

/-- Free choice number `n`: where an accepted command and a walker step can both have their effect, whether the command's
comes first (R254; log 4). -/
opaque Config.effectFirst : Nat → Bool

/-- Free choice number `n`: whether `cmd_ready` is 1 for a word that cannot take effect yet (R249, R251; log 3). -/
opaque Config.acceptsAhead : Nat → Bool

/-- Free choice number `n`: where a reset is to come and another move can happen, whether the reset strikes first (R243;
log 5). -/
opaque Config.resetFirst : Nat → Bool

end Sys2Proof
end

