-- ==== Sys2Proof/Syntax.lean ====
section
/-! DEFINITION. The 13 commands of the opcode map (R92), one constructor a row of spec/opcode_table.json, their fields
at the widths of R95. -/

namespace Sys2Proof

/-- A command (R2, R92). The fields are those of the row's format (R91). -/
inductive Instr where
  /-- NOP, format Z (R146). -/
  | nop
  /-- SETNP addr, format A12 (R120). -/
  | setnp (addr : NodeIdx)
  /-- WNI left, right, format NI (R121). -/
  | wni (left right : NodeIdx)
  /-- WNL sym, format S16 (R122). -/
  | wnl (sym : Symbol)
  /-- SETLP idx, format A10 (R130). -/
  | setlp (idx : LutIdx)
  /-- WLL sym, len, format SL (R131). -/
  | wll (sym : Symbol) (len : BitVec 4)
  /-- WLN node, format A12 (R132). -/
  | wln (node : NodeIdx)
  /-- WLX, format Z (R133). -/
  | wlx
  /-- CFG root, k, lut_en, irq_en, format CF (R141). -/
  | cfg (root : NodeIdx) (k : BitVec 4) (lutEn irqEn : Bool)
  /-- START, format Z (R142). -/
  | start
  /-- PUSHB cnt, data, format PB; all 16 bits of DATA are kept, those above `cnt` too (R95, R143). -/
  | pushb (cnt : BitVec 5) (data : BitVec 16)
  /-- EOS, format Z (R144). -/
  | eos
  /-- ABORT, format Z (R145). -/
  | abort
deriving DecidableEq, Repr

end Sys2Proof
end

