-- ==== Sys2Proof/Machine/State.lean ====
section
/-! DEFINITION. The machine's state in two parts: `Block`, the block's state, which is R20's elements and nothing else,
and `Outside`, the model's own record of the host. All of it is plain data. -/

namespace Sys2Proof.Machine

/-- The session state SESS (R25). Values 5, 6 and 7 are never held. -/
inductive Sess where
  | idle | run | drain | done | error
deriving DecidableEq, Repr

/-- The configuration register CFG, 18 bits, by its fields (R22). -/
structure Cfg where
  /-- ROOT, CFG[11:0]. -/
  root : NodeIdx
  /-- K, CFG[15:12]. -/
  k : BitVec 4
  /-- LUT_EN, CFG[16]. -/
  lutEn : Bool
  /-- IRQ_EN, CFG[17]. -/
  irqEn : Bool
deriving DecidableEq, Repr

/-- A written node memory entry (R61). An entry that is not written is held nowhere. -/
inductive Node where
  /-- A leaf with its symbol. -/
  | leaf (sym : Symbol)
  /-- An internal node: the child taken on a 0 bit, the child taken on a 1 bit. -/
  | internal (left right : NodeIdx)
deriving DecidableEq, Repr

/-- A written LUT entry (R65). -/
inductive LutEntry where
  /-- A codeword of `len` bits that ends at a leaf with symbol `sym`. -/
  | lleaf (sym : Symbol) (len : BitVec 4)
  /-- After K bits the walk stands at node `idx`. -/
  | lnode (idx : NodeIdx)
  /-- No decoding is defined for this prefix. -/
  | linvalid
deriving DecidableEq, Repr

/-- An output record (R74); tag 11 has no constructor, since it is never emitted
(log 15). -/
inductive Record where
  /-- SYM, tag 00. -/
  | sym (s : Symbol)
  /-- END, tag 01, with SYM_COUNT[29:0]. -/
  | fin (count : BitVec 30)
  /-- ERR, tag 10, with the error code. -/
  | err (code : BitVec 8)
deriving DecidableEq, Repr

/-- An indexed table with written bits (R60, R64): its written entries by index, indexes strictly rising; an index
that is not listed is Unwritten (log 12). -/
abbrev Table (α : Type) := List (Nat × α)

/-- One action of the host at the block's ports or on its reset line (log 1). -/
inductive HostEvent where
  /-- A word offered on the command port: `cmd_valid` stays 1 and `cmd_data` stays `w` until it is accepted (R249). -/
  | command (w : Word)
  /-- `out_ready` is 1 on one edge of the clock (R250). -/
  | outReady
  /-- A read of one status offset (R37). -/
  | statusRead (addr : BitVec 4)
  /-- `rst_n` goes low, and is low on `more + 1` edges of the clock, so on at least one (R240). -/
  | reset (more : Nat)
deriving DecidableEq, Repr

/-- The architectural state: one field per element of R20 and nothing else. -/
structure Block where
  /-- CFG (R22). -/
  cfg : Cfg
  /-- NP, the node write pointer (R23). -/
  np : NodeIdx
  /-- LP, the LUT write pointer (R24). -/
  lp : LutIdx
  /-- SESS (R25). -/
  sess : Sess
  /-- EOS_SEEN (R26). -/
  eosSeen : Bool
  /-- SYM_COUNT (R27). -/
  symCount : Word
  /-- BIT_COUNT (R28). -/
  bitCount : Word
  /-- ERR_CODE (R29). -/
  errCode : BitVec 8
  /-- ERR_INFO (R30). -/
  errInfo : Word
  /-- cur, the walker's node (R31). -/
  cur : NodeIdx
  /-- depth, the bits consumed in the codeword in progress (R32). -/
  depth : BitVec 12
  /-- BITQ, the pending bits, first bit of the stream first (R33). -/
  bitq : List Bool
  /-- OUTQ, the records emitted and not taken, oldest first (R34). -/
  outq : List Record
  /-- The node memory (R60). -/
  nodes : Table Node
  /-- The LUT (R64). -/
  lut : Table LutEntry
deriving DecidableEq, Repr

/-- MODEL'S OWN: the host and what has passed between it and the block. None of it is state of the block (R20): a step
takes no argument but the state, so what the host does has to stand beside the block. -/
structure Outside where
  /-- What the host will do at the ports, in its order (log 1). -/
  agenda : List HostEvent
  /-- The command words that the port has accepted and that have not taken effect, oldest first (R249, log 3). They are
  part of the command stream, which is no state of the block (R20). -/
  accepted : List Word
  /-- The records the host has taken, oldest first (log 14). -/
  taken : List Record
  /-- The word the last status read returned on `stat_data` (log 14). -/
  statData : Word
  /-- How many free choices have been made (log 4). -/
  draws : Nat
  /-- The edges on which the host will still hold `rst_n` low; 0 while `rst_n` is high (R240, log 5). -/
  lowEdges : Nat
  /-- The edges with a word offered on which `cmd_ready` is still 0 since the last reset (R244, log 21). -/
  readyIn : Nat
deriving DecidableEq, Repr

/-- The block and its outside. -/
structure State extends Block, Outside
deriving DecidableEq, Repr

/-- Why a step can stop with a fault. -/
inductive Fault where
  /-- Raised by the walker (`insideStep`) when it stands inside a codeword at a node that is not internal. R35 rules
  such a state out and no rule says what a serial step does there. Safe: the model stops, and no state that meets the
  machine's invariant raises it (log 9). -/
  | walkerOffTree
deriving DecidableEq, Repr

/-- Why an instruction can be refused. -/
inductive Refusal where
  /-- Raised by an arm of `exec` whose instruction has no meaning yet. No arm raises it: every command is modelled.
  Safe. -/
  | notModelled (mnemonic : String)
deriving DecidableEq, Repr

/-- The block right after reset (R241): every element 0, empty, IDLE or unwritten. -/
def Block.reset : Block where
  cfg := ⟨0, 0, false, false⟩
  np := 0
  lp := 0
  sess := .idle
  eosSeen := false
  symCount := 0
  bitCount := 0
  errCode := 0
  errInfo := 0
  cur := 0
  depth := 0
  bitq := []
  outq := []
  nodes := []
  lut := []

/-- The state right after reset (R241), `rst_n` high again (R244). The outside is empty or 0 (DESIGN CHOICE, logs 1, 3, 4,
5, 14, 21): the host has done nothing and will do nothing. -/
def State.reset : State where
  toBlock := Block.reset
  agenda := []
  accepted := []
  taken := []
  statData := 0
  draws := 0
  lowEdges := 0
  readyIn := 0

end Sys2Proof.Machine
end

