-- ==== Sys2Proof/Machine/Flags.lean ====
section
/-! DEFINITION. What the block shows of its state: the `irq` line (R220), the OUT port's lines (R250,
R240), record words (R74) and the status port (R37 to R46). There are no condition codes (R36). -/

namespace Sys2Proof.Machine

/-- The encoding of SESS (R25). -/
def Sess.code : Sess → BitVec 3
  | .idle => 0
  | .run => 1
  | .drain => 2
  | .done => 3
  | .error => 4

/-- The `irq` output: IRQ_EN and (DONE or ERROR) (R220). -/
def irq (s : State) : Bool := s.cfg.irqEn && (s.sess == .done || s.sess == .error)

/-- The word of a record: tag [31:30], then its contents (R74). -/
def Record.word : Record → Word
  | .sym s => 0b00#2 ++ 0#14 ++ s
  | .fin count => 0b01#2 ++ count
  | .err code => 0b10#2 ++ 0#22 ++ code

/-- The level of `rst_n`: false while a reset holds it low (R240). -/
def rstN (s : State) : Bool := s.lowEdges == 0

/-- `out_valid`: 0 while `rst_n` is low (R240), otherwise 1 exactly when OUTQ is non-empty (R250). -/
def outValid (s : State) : Bool := rstN s && !s.outq.isEmpty

/-- `out_data`: the head record while `out_valid` is 1 (R250); the spec gives it no value otherwise (log 13). -/
def outData (s : State) : Option Word := if outValid s then s.outq.head?.map Record.word else none

/-- CFG as the 18-bit register (R22). -/
def Cfg.bits (c : Cfg) : BitVec 18 := BitVec.ofBool c.irqEn ++ BitVec.ofBool c.lutEn ++ c.k ++ c.root

/-- The STATUS word, most significant field first (R40). -/
def statusWord (s : State) : Word :=
  0#14 ++ BitVec.ofBool s.outq.isEmpty ++ BitVec.ofBool s.bitq.isEmpty ++ s.errCode ++ 0#2
    ++ BitVec.ofBool (irq s) ++ BitVec.ofBool (s.depth == 0) ++ BitVec.ofBool s.eosSeen ++ s.sess.code

/-- A queue level as it reads: the number of entries, where 32 bits hold it. R8 sets the capacities no upper bound and R44
says nothing of more, so there it is a free value (DESIGN CHOICE, log 20). -/
def levelWord (n : Nat) : Word := if n < 4294967296 then BitVec.ofNat 32 n else Config.levelBeyond n

/-- The status port: the word at one of the 16 offsets (R37 to R45). It reads one state, so every field of one read is
from the same moment (R46). -/
def statusPort (s : State) (addr : BitVec 4) : Word :=
  match addr.toNat with
  | 0x0 => Config.idWord
  | 0x1 => statusWord s
  | 0x2 => 0#14 ++ s.cfg.bits
  | 0x3 => s.errInfo
  | 0x4 => s.symCount
  | 0x5 => s.bitCount
  | 0x6 => 0#6 ++ s.lp ++ 0#4 ++ s.np
  | 0x7 => 0#4 ++ s.depth ++ 0#4 ++ s.cur
  | 0x8 => levelWord s.bitq.length
  | 0x9 => levelWord s.outq.length
  | _ => 0

end Sys2Proof.Machine
end

