-- ==== Sys2Proof/WellFormed.lean ====
section
/-! DEFINITION. The one constraint of a command that its field widths do not express and that decoding checks: the
count of a PUSHB (R96, R97). The value checks of CFG and WLL belong to their meanings (R96). -/

namespace Sys2Proof

/-- A PUSHB count is legal when it is 1..16 (R96). -/
def pushCountOk (cnt : BitVec 5) : Bool := cnt.toNat != 0 && decide (cnt.toNat ≤ Config.pushMax)

/-- A command is well formed when some word decodes to it (R96, R97). -/
def Instr.wellFormed : Instr → Bool
  | .pushb cnt _ => pushCountOk cnt
  | .nop | .setnp _ | .wni _ _ | .wnl _ | .setlp _ | .wll _ _ | .wln _ | .wlx | .cfg _ _ _ _ | .start | .eos
  | .abort => true

end Sys2Proof
end

