-- ==== Sys2Proof/Decode.lean ====
section
/-! DEFINITION. Decoding a command word (R90 to R98), total and independent of any state (R97), and the encoder written
from the same table. -/

namespace Sys2Proof

/-- The opcodes of the map (R92). -/
inductive Opcode where
  | nop | setnp | wni | wnl | setlp | wll | wln | wlx | cfg | start | pushb | eos | abort
deriving DecidableEq, Repr

/-- Why a word is illegal (R207). -/
inductive IllegalReason where
  /-- The opcode is 0x0D..0xFF (R94). -/
  | reservedOpcode
  /-- A reserved bit of the row's format is 1 (R93). -/
  | reservedBit (op : Opcode)
  /-- A PUSHB whose count is 0 or above 16 (R96). -/
  | badCount
deriving DecidableEq, Repr

/-- The row whose opcode byte is `op` (R92); none is reserved (R94). -/
def Opcode.ofByte (op : BitVec 8) : Option Opcode :=
  match op.toNat with
  | 0x00 => some .nop
  | 0x01 => some .setnp
  | 0x02 => some .wni
  | 0x03 => some .wnl
  | 0x04 => some .setlp
  | 0x05 => some .wll
  | 0x06 => some .wln
  | 0x07 => some .wlx
  | 0x08 => some .cfg
  | 0x09 => some .start
  | 0x0A => some .pushb
  | 0x0B => some .eos
  | 0x0C => some .abort
  | _ => none

/-- A row's `match` (R92). -/
def Opcode.matchWord : Opcode → Word
  | .nop => 0x00000000
  | .setnp => 0x01000000
  | .wni => 0x02000000
  | .wnl => 0x03000000
  | .setlp => 0x04000000
  | .wll => 0x05000000
  | .wln => 0x06000000
  | .wlx => 0x07000000
  | .cfg => 0x08000000
  | .start => 0x09000000
  | .pushb => 0x0A000000
  | .eos => 0x0B000000
  | .abort => 0x0C000000

/-- A row's `mask` (R92): the opcode and the reserved bits of the format (R91). -/
def Opcode.mask : Opcode → Word
  | .nop => 0xFFFFFFFF
  | .setnp => 0xFFFFF000
  | .wni => 0xFF000000
  | .wnl => 0xFFFF0000
  | .setlp => 0xFFFFFC00
  | .wll => 0xFFF00000
  | .wln => 0xFFFFF000
  | .wlx => 0xFFFFFFFF
  | .cfg => 0xFFFC0000
  | .start => 0xFFFFFFFF
  | .pushb => 0xFFE00000
  | .eos => 0xFFFFFFFF
  | .abort => 0xFFFFFFFF

/-- The word selects the row: `(w & mask) == match` (R92). -/
def Opcode.selects (op : Opcode) (w : Word) : Bool := w &&& op.mask == op.matchWord

/-- The field of `len` bits whose least significant bit is bit `lo` of the word (R10). -/
def field (w : Word) (lo len : Nat) : BitVec len := w.extractLsb' lo len

/-- One bit of the word, as a Boolean field (R95). -/
def flag (w : Word) (i : Nat) : Bool := w.getLsbD i

/-- The fields of the row's format, taken from the word (R91, R95). -/
def fieldsOf (op : Opcode) (w : Word) : Instr :=
  match op with
  | .nop => .nop
  | .setnp => .setnp (field w 0 12)
  | .wni => .wni (field w 0 12) (field w 12 12)
  | .wnl => .wnl (field w 0 16)
  | .setlp => .setlp (field w 0 10)
  | .wll => .wll (field w 0 16) (field w 16 4)
  | .wln => .wln (field w 0 12)
  | .wlx => .wlx
  | .cfg => .cfg (field w 0 12) (field w 12 4) (flag w 16) (flag w 17)
  | .start => .start
  | .pushb => .pushb (field w 16 5) (field w 0 16)
  | .eos => .eos
  | .abort => .abort

/-- Decode a command word (R97): the opcode, then the reserved bits, then the count of a PUSHB. -/
def decode (w : Word) : Except IllegalReason Instr :=
  match Opcode.ofByte (field w 24 8) with
  | none => .error .reservedOpcode
  | some op =>
    if op.selects w then
      let i := fieldsOf op w
      if i.wellFormed then .ok i else .error .badCount
    else .error (.reservedBit op)

/-- The word of a command (R91, R92, R110). Reserved bits are 0. -/
def encode : Instr → Word
  | .nop => 0x00#8 ++ 0#24
  | .setnp addr => 0x01#8 ++ 0#12 ++ addr
  | .wni left right => 0x02#8 ++ right ++ left
  | .wnl sym => 0x03#8 ++ 0#8 ++ sym
  | .setlp idx => 0x04#8 ++ 0#14 ++ idx
  | .wll sym len => 0x05#8 ++ 0#4 ++ len ++ sym
  | .wln node => 0x06#8 ++ 0#12 ++ node
  | .wlx => 0x07#8 ++ 0#24
  | .cfg root k lutEn irqEn => 0x08#8 ++ 0#6 ++ BitVec.ofBool irqEn ++ BitVec.ofBool lutEn ++ k ++ root
  | .start => 0x09#8 ++ 0#24
  | .pushb cnt data => 0x0A#8 ++ 0#3 ++ cnt ++ data
  | .eos => 0x0B#8 ++ 0#24
  | .abort => 0x0C#8 ++ 0#24

/-- What the decoder reads from an instruction whose bits are `w`, numbered as spec/opcode_table.json numbers them: one
32-bit word, its bits above `nbits` zero. A port word is not split into bytes (R72). -/
def decodeTableWord (nbits w : Nat) : Option Instr :=
  match decode (BitVec.ofNat 32 (w % 2 ^ nbits)) with
  | .ok i => some i
  | .error _ => none

end Sys2Proof
end

