-- ==== Sys2Proof/Machine/Operands.lean ====
section
/-! DEFINITION. Operand assembly: the stream bits of a PUSHB (R69, R95), bits read as a number (R70), and the state
check of R140. -/

namespace Sys2Proof.Machine

/-- The stream bits of a PUSHB in stream order: DATA[cnt-1] first, DATA[0] last (R69, R143). DATA bits above `cnt` are
not among them. -/
def streamBits (cnt : Nat) (data : BitVec 16) : List Bool :=
  (List.range cnt).map fun j => data.getLsbD (cnt - 1 - j)

/-- Bits read as a number, the first bit the most significant (R70). -/
def bitsToNat (bs : List Bool) : Nat := bs.foldl (fun n b => 2 * n + b.toNat) 0

/-- The rows of R140's table. -/
inductive CommandClass where
  /-- ABORT. NOP, which has no effect and is legal in every state (R146), is not checked at all. -/
  | always
  /-- SETNP, WNI, WNL, SETLP, WLL, WLN, WLX, CFG, START. -/
  | outsideSession
  /-- PUSHB, EOS. -/
  | insideSession
deriving DecidableEq, Repr

/-- What the state check says of a command (R140). -/
inductive Verdict where
  /-- It executes. -/
  | passes
  /-- It raises WRONG_STATE. -/
  | wrongState
  /-- It is discarded, without effect and without a record (R212). -/
  | discarded
  /-- It waits: no command takes effect in DRAIN (R162, R254). -/
  | held
deriving DecidableEq, Repr

/-- The table of R140, by row and session state. Its DRAIN column is R162's (log 8). -/
def checkState : CommandClass → Sess → Verdict
  | _, .drain => .held
  | .always, _ => .passes
  | .outsideSession, .run => .wrongState
  | .outsideSession, _ => .passes
  | .insideSession, .run => .passes
  | .insideSession, .error => .discarded
  | .insideSession, _ => .wrongState

end Sys2Proof.Machine
end

