-- ==== Sys2Proof/Machine/Ops.lean ====
section
/-! DEFINITION. The named operations of R11 over the tables, the queues and the session: each instruction and each
walker step is written with these. -/

namespace Sys2Proof.Machine

/-! ### The tables -/

/-- The entry written at an index, or none where nothing has been written (R61, R65). -/
def tableRead {α : Type} (t : Table α) (i : Nat) : Option α :=
  match t with
  | [] => none
  | (j, e) :: rest => if i = j then some e else tableRead rest i

/-- Replace the entry at an index; no other entry changes (R62, R66). Indexes stay strictly rising. -/
def tableWrite {α : Type} (t : Table α) (i : Nat) (e : α) : Table α :=
  match t with
  | [] => [(i, e)]
  | (j, f) :: rest =>
    if i < j then (i, e) :: (j, f) :: rest
    else if i = j then (i, e) :: rest
    else (j, f) :: tableWrite rest i e

/-- Indexes rise strictly and lie in `lo .. size - 1`. -/
def tableWfFrom {α : Type} (size lo : Nat) : Table α → Bool
  | [] => true
  | (j, _) :: rest => decide (lo ≤ j) && decide (j < size) && tableWfFrom size (j + 1) rest

/-- The canonical form of the two tables: equal contents are equal lists. -/
def Memory.wf (s : State) : Bool := tableWfFrom Config.nodeN 0 s.nodes && tableWfFrom Config.lutN 0 s.lut

/-- `NodeRead(i)`; none is Unwritten (R61). -/
def nodeRead (i : NodeIdx) (s : State) : Option Node := tableRead s.nodes i.toNat

/-- `LutRead(i)`; none is Unwritten (R65). -/
def lutRead (i : LutIdx) (s : State) : Option LutEntry := tableRead s.lut i.toNat

/-- `NodeWrite(NP, e)`, then NP advances by 1 modulo 4096 (R62, R121, R122). -/
def writeNodeAtNp (e : Node) (s : State) : State :=
  { s with nodes := tableWrite s.nodes s.np.toNat e, np := s.np + 1 }

/-- `LutWrite(LP, e)`, then LP advances by 1 modulo 1024 (R66, R131 to R133). -/
def writeLutAtLp (e : LutEntry) (s : State) : State :=
  { s with lut := tableWrite s.lut s.lp.toNat e, lp := s.lp + 1 }

/-! ### The queues -/

/-- `Peek(n)` (R70). -/
def peek (n : Nat) (s : State) : List Bool := s.bitq.take n

/-- `Consume(n)` (R71). -/
def consume (n : Nat) (s : State) : State :=
  { s with bitq := s.bitq.drop n, bitCount := s.bitCount + BitVec.ofNat 32 n }

/-- Append bits at the tail of BITQ, in stream order (R143). -/
def pushBits (bs : List Bool) (s : State) : State := { s with bitq := s.bitq ++ bs }

/-- Whether a record is a SYM record. -/
def Record.isSym : Record → Bool
  | .sym _ => true
  | .fin _ | .err _ => false

/-- `Emit(r)`: append at the tail of OUTQ; a SYM record counts (R73). -/
def emit (r : Record) (s : State) : State :=
  { s with outq := s.outq ++ [r], symCount := if r.isSym then s.symCount + 1 else s.symCount }

/-! ### Error entry and the ways out of it -/

/-- The errors (R200). -/
inductive ErrName where
  | truncatedInput | unwrittenNode | lutInvalid | lutBadLen | depthOverflow | illegalCmd | wrongState | badCfg
deriving DecidableEq, Repr

/-- The code of an error (R200). -/
def ErrName.code : ErrName → BitVec 8
  | .truncatedInput => 1
  | .unwrittenNode => 2
  | .lutInvalid => 3
  | .lutBadLen => 4
  | .depthOverflow => 5
  | .illegalCmd => 8
  | .wrongState => 9
  | .badCfg => 10

/-- `raise Err(code, info)`: error entry, the one operation that takes an error (R210). In ERROR it is discarded
(R212). Nothing else changes (R210, R213). -/
def raise (e : ErrName) (info : Word) (s : State) : State :=
  if s.sess = .error then s
  else emit (.err e.code) { s with errCode := e.code, errInfo := info, sess := .error }

/-- What START does when its check passes: a new session, which is also a way out of ERROR (R142, R217). -/
def openSession (s : State) : State :=
  { s with bitq := [], eosSeen := false, cur := s.cfg.root, depth := 0, symCount := 0, bitCount := 0, errCode := 0,
           errInfo := 0, sess := .run }

/-- What ABORT does: the other way out of ERROR; the counters and OUTQ are kept (R145, R217). -/
def closeSession (s : State) : State :=
  { s with bitq := [], eosSeen := false, cur := s.cfg.root, depth := 0, errCode := 0, errInfo := 0, sess := .idle }

/-- What EOS does when its check passes (R144). -/
def markEos (s : State) : State := { s with eosSeen := true, sess := .drain }

/-! ### The frame of every command -/

/-- The outcome type of the machine. -/
abbrev Result := Host.Outcome State Fault Refusal

/-- Run a command behind its state check (R140, R214). `i` is the command itself: its word is the ERR_INFO of a
WRONG_STATE (R211, log 10), and in DRAIN the word goes on waiting and nothing else happens (R162, log 8). -/
def checked (c : CommandClass) (i : Instr) (body : State → State) (s : State) : Result :=
  match checkState c s.sess with
  | .passes => .next (body s)
  | .wrongState => .next (raise .wrongState (encode i) s)
  | .discarded => .next s
  | .held => .next { s with accepted := encode i :: s.accepted }

end Sys2Proof.Machine
end

