-- ==== Sys2Proof/Machine/LutLoad.lean ====
section
/-! DEFINITION. The LUT-load commands SETLP, WLL, WLN and WLX (41_lut_load.md). -/

namespace Sys2Proof.Machine

/-- SETLP idx: LP <- idx (R130). -/
def execSetlp (idx : LutIdx) (s : State) : Result :=
  checked .outsideSession (.setlp idx) (fun s => { s with lp := idx }) s

/-- WLL sym, len: a leaf hit at LP, then LP + 1; `len` is not checked here (R131). -/
def execWll (sym : Symbol) (len : BitVec 4) (s : State) : Result :=
  checked .outsideSession (.wll sym len) (writeLutAtLp (.lleaf sym len)) s

/-- WLN node: a continue-at-node entry at LP, then LP + 1; `node` is not checked (R132). -/
def execWln (node : NodeIdx) (s : State) : Result :=
  checked .outsideSession (.wln node) (writeLutAtLp (.lnode node)) s

/-- WLX: an invalid entry at LP, then LP + 1 (R133). -/
def execWlx (s : State) : Result :=
  checked .outsideSession .wlx (writeLutAtLp .linvalid) s

end Sys2Proof.Machine
end

