-- ==== Sys2Proof/Machine/Session.lean ====
section
/-! DEFINITION. The session-control commands CFG, START, PUSHB, EOS, ABORT and NOP (42_session.md). -/

namespace Sys2Proof.Machine

/-- LUT_EN and K may stand together: any K with LUT_EN = 0, K in 1..10 with LUT_EN = 1 (R22, R141). -/
def cfgLegal (k : BitVec 4) (lutEn : Bool) : Bool :=
  !lutEn || (decide (1 ≤ k.toNat) && decide (k.toNat ≤ Config.kMax))

/-- CFG root, k, lut_en, irq_en: BAD_CFG leaves CFG unchanged (R141). `cur` does not change. -/
def execCfg (root : NodeIdx) (k : BitVec 4) (lutEn irqEn : Bool) (s : State) : Result :=
  checked .outsideSession (.cfg root k lutEn irqEn)
    (fun s =>
      if cfgLegal k lutEn then { s with cfg := ⟨root, k, lutEn, irqEn⟩ }
      else raise .badCfg (encode (.cfg root k lutEn irqEn)) s) s

/-- START: open a decoding session (R142). -/
def execStart (s : State) : Result := checked .outsideSession .start openSession s

/-- PUSHB cnt, data: append `cnt` bits (R143). A count outside 1..16 makes the word illegal before any state check
(R96, R214); no word decodes to such a command (log 11). -/
def execPushb (cnt : BitVec 5) (data : BitVec 16) (s : State) : Result :=
  if pushCountOk cnt then checked .insideSession (.pushb cnt data) (pushBits (streamBits cnt.toNat data)) s
  else .next (raise .illegalCmd (encode (.pushb cnt data)) s)

/-- EOS: mark the end of the bit sequence (R144). -/
def execEos (s : State) : Result := checked .insideSession .eos markEos s

/-- ABORT: end any session without a record (R145). -/
def execAbort (s : State) : Result := checked .always .abort closeSession s

/-- NOP: nothing, in every state (R146). -/
def execNop (s : State) : Result := .next s

end Sys2Proof.Machine
end

