-- ==== Sys2Proof/Machine/TreeLoad.lean ====
section
/-! DEFINITION. The tree-load commands SETNP, WNI and WNL (40_tree_load.md). -/

namespace Sys2Proof.Machine

/-- SETNP addr: NP <- addr (R120). -/
def execSetnp (addr : NodeIdx) (s : State) : Result :=
  checked .outsideSession (.setnp addr) (fun s => { s with np := addr }) s

/-- WNI left, right: an internal node at NP, then NP + 1 (R121). -/
def execWni (left right : NodeIdx) (s : State) : Result :=
  checked .outsideSession (.wni left right) (writeNodeAtNp (.internal left right)) s

/-- WNL sym: a leaf at NP, then NP + 1 (R122). -/
def execWnl (sym : Symbol) (s : State) : Result :=
  checked .outsideSession (.wnl sym) (writeNodeAtNp (.leaf sym)) s

end Sys2Proof.Machine
end

