-- ==== Sys2Proof/Machine/Dispatch.lean ====
section
/-! DEFINITION. `exec`: one arm per command of the opcode map (R92), each one call of its meaning. -/

namespace Sys2Proof.Machine

def exec (i : Instr) (s : State) : Host.Outcome State Fault Refusal :=
  match i with
  | .nop => Sys2Proof.Machine.execNop s
  | .setnp addr => Sys2Proof.Machine.execSetnp addr s
  | .wni left right => Sys2Proof.Machine.execWni left right s
  | .wnl sym => Sys2Proof.Machine.execWnl sym s
  | .setlp idx => Sys2Proof.Machine.execSetlp idx s
  | .wll sym len => Sys2Proof.Machine.execWll sym len s
  | .wln node => Sys2Proof.Machine.execWln node s
  | .wlx => Sys2Proof.Machine.execWlx s
  | .cfg root k lutEn irqEn => Sys2Proof.Machine.execCfg root k lutEn irqEn s
  | .start => Sys2Proof.Machine.execStart s
  | .pushb cnt data => Sys2Proof.Machine.execPushb cnt data s
  | .eos => Sys2Proof.Machine.execEos s
  | .abort => Sys2Proof.Machine.execAbort s

end Sys2Proof.Machine
end

