-- ==== Sys2Proof/Machine/Walker.lean ====
section
/-! DEFINITION. The walker (43_walker.md): one step, and the run to quiescence. -/

namespace Sys2Proof.Machine

/-- `EmitSymbol(s)`: a SYM record, and back to the root (R170). -/
def emitSymbol (sym : Symbol) (s : State) : State :=
  { emit (.sym sym) s with cur := s.cfg.root, depth := 0 }

/-- An error of the walker: its ERR_INFO is BIT_COUNT (R211). -/
def walkerError (e : ErrName) (s : State) : State := raise e s.bitCount s

/-- `DescendInternal(nxt)`, with the code-length limit (R169). -/
def descendInternal (nxt : NodeIdx) (s : State) : State :=
  if s.depth.toNat + 1 = Config.maxCodeLen then walkerError .depthOverflow s
  else { consume 1 s with cur := nxt, depth := s.depth + 1 }

/-- `SerialStep(Internal(left, right))`: one bit, one level (R168). -/
def serialStep (left right : NodeIdx) (s : State) : State :=
  let nxt := if peek 1 s = [true] then right else left
  match nodeRead nxt s with
  | none => walkerError .unwrittenNode s
  | some (.leaf sym) => emitSymbol sym (consume 1 s)
  | some (.internal _ _) => descendInternal nxt s

/-- `DegenerateStep(sym)`: the root is a leaf, one placeholder bit of either value (R167). -/
def degenerateStep (sym : Symbol) (s : State) : State := emitSymbol sym (consume 1 s)

/-- `LutStep()` (R173). CFG never holds LUT_EN = 1 with a K that the 10-bit index could not hold (R22, log 17). -/
def lutStep (s : State) : State :=
  let k := s.cfg.k.toNat
  match lutRead (BitVec.ofNat 10 (bitsToNat (peek k s))) s with
  | none | some .linvalid => walkerError .lutInvalid s
  | some (.lleaf sym len) =>
    if len.toNat = 0 ∨ k < len.toNat then walkerError .lutBadLen s
    else emitSymbol sym (consume len.toNat s)
  | some (.lnode idx) =>
    match nodeRead idx s with
    | none => walkerError .unwrittenNode s
    | some (.leaf sym) => emitSymbol sym (consume k s)
    | some (.internal _ _) => { consume k s with cur := idx, depth := s.cfg.k.setWidth 12 }

/-- `Finish()`: END with SYM_COUNT[29:0], and DONE (R171). -/
def finish (s : State) : State := emit (.fin (s.symCount.setWidth 30)) { s with sess := .done }

/-- A step with BITQ empty: none, finish, or truncation (R163, R171, R172). -/
def emptyStep (s : State) : Option Result :=
  if s.eosSeen then
    if s.depth = 0 then some (.next (finish s)) else some (.next (walkerError .truncatedInput s))
  else none

/-- A step at a boundary with bits pending (R163, R165 to R168, R173). -/
def boundaryStep (s : State) : Option Result :=
  match nodeRead s.cfg.root s with
  | none => some (.next (walkerError .unwrittenNode s))
  | some (.leaf sym) => some (.next (degenerateStep sym s))
  | some (.internal left right) =>
    if s.cfg.lutEn then
      if s.cfg.k.toNat ≤ s.bitq.length then some (.next (lutStep s))
      else if s.eosSeen then some (.next (serialStep left right s))
      else none
    else some (.next (serialStep left right s))

/-- A step inside a codeword with bits pending (R163). The node at `cur` is internal (R35); the spec gives no step
otherwise (log 9). -/
def insideStep (s : State) : Option Result :=
  match nodeRead s.cur s with
  | some (.internal left right) => some (.next (serialStep left right s))
  | some (.leaf _) | none => some (.fault .walkerOffTree)

/-- `WalkerStep()`: none where no step is enabled (R163). -/
def walkerStep (s : State) : Option Result :=
  if s.sess = .run ∨ s.sess = .drain then
    if s.bitq = [] then emptyStep s
    else if s.depth = 0 then boundaryStep s
    else insideStep s
  else none

/-- The walker is quiescent: it has no enabled step (R164). -/
def quiescent (s : State) : Bool := (walkerStep s).isNone

/-- At most `fuel` walker steps. -/
def walkFor : Nat → State → State
  | 0, s => s
  | fuel + 1, s =>
    match walkerStep s with
    | some (.next t) => walkFor fuel t
    | some (.fault _) | some (.refused _) | none => s

/-- `Walk()`: walker steps until none is enabled; |BITQ| + 1 of them are enough (R161). -/
def walk (s : State) : State := walkFor (s.bitq.length + 1) s

end Sys2Proof.Machine
end

