-- ==== Sys2Proof/Machine/Loop.lean ====
section
/-! DEFINITION. The architectural loop of R160: execute a command word, then walk. It has no queue capacities and no
overlap; `step` is the block itself, and R160 says that it comes out the same. -/

namespace Sys2Proof.Machine

/-- `Execute(w)`: decode, then the command's rule; an illegal word raises ILLEGAL_CMD with the word as ERR_INFO (R97,
R207). -/
def execute (w : Word) (s : State) : Result :=
  match decode w with
  | .ok i => exec i s
  | .error _ => .next (raise .illegalCmd w s)

/-- One round of the loop: `Execute(w)`, then `Walk()` (R160). -/
def loopOnce (w : Word) (s : State) : Result :=
  match execute w s with
  | .next t => .next (walk t)
  | .fault r => .fault r
  | .refused r => .refused r

/-- The loop over a command stream (R160). -/
def loop : List Word → State → Result
  | [], s => .next s
  | w :: ws, s =>
    match loopOnce w s with
    | .next t => loop ws t
    | .fault r => .fault r
    | .refused r => .refused r

/-- The loop over commands that are already decoded. -/
def loopCommands : List Instr → State → Result
  | [], s => .next s
  | i :: is, s =>
    match exec i s with
    | .next t => loopCommands is (walk t)
    | .fault r => .fault r
    | .refused r => .refused r

end Sys2Proof.Machine
end

