-- ==== Sys2Proof/Machine/Ports.lean ====
section
/-! DEFINITION. The ports around the architectural loop: the command port (R249), the OUT port (R250), the status port
(R46), reset (R240 to R243), back-pressure (R251) and the hold rule (R254). -/

namespace Sys2Proof.Machine

/-- One edge with `out_ready` at 1 and `rst_n` high: the head record of OUTQ is taken, if there is one (R250, log 13). -/
def takeRecord (s : State) : State :=
  match s.outq with
  | [] => s
  | r :: rest => { s with outq := rest, taken := s.taken ++ [r] }

/-- A status read: the block does not change (R37); the host sees the word. -/
def readStatus (addr : BitVec 4) (s : State) : State := { s with statData := statusPort s addr }

/-- Every element of R20 takes its reset value (R240, R241). The words that were accepted without their effect are lost
(R243); the rest of the outside stays as it is (log 14). -/
def resetBlock (s : State) : State := { s with toBlock := Block.reset, accepted := [] }

/-- The host drives `rst_n` low, for `more + 1` edges (R240). The block is as it was until the first of them. -/
def lowerRst (more : Nat) (rest : List HostEvent) (s : State) : State := { s with agenda := rest, lowEdges := more + 1 }

/-- One edge with `rst_n` low: a reset (R240), the last of it if `rst_n` goes high after this edge. Then `cmd_ready` stays 0
for what is left of RESET_READY_CYCLES (R244, log 21), and the free choice of that is counted. -/
def resetEdge (s : State) : State :=
  { resetBlock s with
      lowEdges := s.lowEdges - 1
      readyIn := Config.resetReadyCycles - Config.readyPassed s.draws
      draws := s.draws + 1 }

/-- The first reset on an agenda, by its edges beyond the first, and what stands after it; none where no reset is to
come. -/
def afterReset : List HostEvent → Option (Nat × List HostEvent)
  | [] => none
  | .reset more :: rest => some (more, rest)
  | .command _ :: rest | .outReady :: rest | .statusRead _ :: rest => afterReset rest

/-- Going from `s` to `t` exceeds neither queue's capacity (R8, R44, R251). -/
def fits (s t : State) : Bool :=
  (Nat.ble t.outq.length s.outq.length || Nat.ble t.outq.length Config.outqDepth)
    && (Nat.ble t.bitq.length s.bitq.length || Nat.ble t.bitq.length Config.bitqDepth)

/-- A move that would exceed a capacity waits: it does not happen now (R251; of commands that raise an error, log 7). -/
def ifFits (s : State) (r : Result) : Option Result :=
  match r with
  | .next t => if fits s t then some (.next t) else none
  | .fault f => some (.fault f)
  | .refused f => some (.refused f)

/-- The walker's move, if it has one now: a step is enabled and OUTQ has room for what it emits (R163, R251). -/
def walkerMove (s : State) : Option Result :=
  match walkerStep s with
  | some r => ifFits s r
  | none => none

/-- The commands that may be applied before the walker is quiescent: NOP, and a PUSHB or an EOS that meets RUN, now and
at its place in the sequential order (R254 with R160, log 3). -/
def mayOverlap (w : Word) (s : State) : Bool :=
  match decode w with
  | .ok .nop => true
  | .ok (.pushb _ _) | .ok .eos => s.sess == .run && (walk s).sess == .run
  | _ => false

/-- The effect of a command word, if it can take effect now (R160, R251, R254). -/
def commandMove (w : Word) (s : State) : Option Result :=
  if quiescent s || mayOverlap w s then ifFits s (execute w s) else none

/-- The oldest accepted word takes effect, if it can now (R249, R79). -/
def portMove (s : State) : Option Result :=
  match s.accepted with
  | [] => none
  | w :: rest => commandMove w { s with accepted := rest }

/-- None of the words has to wait: each could take effect now, and none but a NOP stands behind an EOS (R254). -/
def noneWaits (s : State) : List Word → Bool
  | [] => true
  | w :: ws => (commandMove w s).isSome && (if w = encode .eos then ws.all (· == encode .nop) else noneWaits s ws)

/-- No accepted word holds the port: none waits for the walker, for the end of DRAIN, or for room (R251, R254). -/
def portOpen (s : State) : Bool := noneWaits s s.accepted

/-- A word that is offered now could take effect at once. -/
def takesEffect (w : Word) (s : State) : Bool := s.accepted.isEmpty && (commandMove w s).isSome

/-- `cmd_ready`, with the word `w` offered (R249): 0 while `rst_n` is low (R240), and for some cycles after (R244); 0 while
an accepted word holds the port; 1 for a word that could take effect at once; and for a word that could not, which is
accepted and waits or is not accepted (R251), open (log 3). -/
def cmdReady (w : Word) (s : State) : Bool :=
  rstN s && s.readyIn == 0 && portOpen s && (takesEffect w s || Config.acceptsAhead s.draws)

/-- Accept the word at the head of the agenda (R249). The block does not change. -/
def acceptWord (w : Word) (rest : List HostEvent) (s : State) : State :=
  { s with agenda := rest, accepted := s.accepted ++ [w] }

/-- Count one free choice. -/
def tick : Result → Result
  | .next s => .next { s with draws := s.draws + 1 }
  | .fault r => .fault r
  | .refused r => .refused r

/-- One edge with the word `w` offered: it is accepted if `cmd_ready` is 1 (R249), and otherwise one cycle nearer to being
so after a reset (R244). Where `cmd_ready` is open, it is counted as a free choice (log 3). -/
def offerWord (w : Word) (rest : List HostEvent) (s : State) : Result :=
  let t := if cmdReady w s then acceptWord w rest s else { s with readyIn := s.readyIn - 1 }
  if takesEffect w s then .next t else tick (.next t)

/-- The host's move on the three ports, if it has one now. An action that is done leaves the agenda. -/
def hostMove (s : State) : Option Result :=
  match s.agenda with
  | [] => none
  | .command w :: rest => if portOpen s then some (offerWord w rest s) else none
  | .outReady :: rest => some (.next (takeRecord { s with agenda := rest }))
  | .statusRead addr :: rest => some (.next (readStatus addr { s with agenda := rest }))
  | .reset _ :: _ => none

/-- The next reset, which can strike at any moment: `rst_n` goes low. A command word that stands before it, on the port or accepted, is lost
and never executed, and so is whatever else the host would have done before it (R243, log 5). -/
def resetMove (s : State) : Option Result :=
  match afterReset s.agenda with
  | none => none
  | some (more, rest) => some (.next (lowerRst more rest s))

/-- The move that happens of two that could: the only one there is, or, where there are two, the one that a free choice
picks (log 4). -/
def choose (first : Bool) (a b : Option Result) : Option Result :=
  match a, b with
  | none, _ => b
  | some _, none => a
  | some m, some n => some (tick (if first then m else n))

/-- One move while `rst_n` is high: `rst_n` goes low, a move of the host on the ports, the effect of an accepted command, or
a walker step. Where there is none, the block waits: it is idle (R228), or it is stuck (R253; log 18). -/
def portsMove (s : State) : Result :=
  let block := choose (Config.effectFirst s.draws) (portMove s) (walkerMove s)
  let ports := choose (Config.hostFirst s.draws) (hostMove s) block
  (choose (Config.resetFirst s.draws) (resetMove s) ports).getD (.next s)

/-- One move: while `rst_n` is low an edge of the reset, and nothing else (R240). -/
def advance (s : State) : Result := if rstN s then portsMove s else .next (resetEdge s)

end Sys2Proof.Machine
end

