-- ==== Sys2Proof/Machine/Step.lean ====
section
/-! DEFINITION. One step of the block, and the placing of a command word. -/

namespace Sys2Proof.Machine

/-- One step: a move of the host, of the command port or of the walker, or an edge of a reset (R160, R163, R240, R249,
R254). -/
def step (s : State) : Host.Outcome State Fault Refusal := advance s

/-- `s` with the command word `w` accepted by the command port, the walker at quiescence, and `rst_n` high, so that
the very next step runs the word (R160, R249). It stands for the host, which writes a program's words from outside (log 2). -/
def State.withFetchWord (s : State) (nbits w : Nat) : State :=
  { walk s with agenda := [], accepted := [BitVec.ofNat 32 (w % 2 ^ nbits)], lowEdges := 0 }

end Sys2Proof.Machine
end

