-- ==== Sys2Proof/Machine/Assembler.lean ====
section
/-! DEFINITION. The assembler of R110 to R114: one line of text to the command words it emits, none for an assembly
error. A line is a list of characters (log 19). -/

namespace Sys2Proof.Machine

/-! ### The pseudo-instructions, as commands -/

/-- One PUSHB that carries at most 16 bits, the first bit most significant (R111). -/
def pushOf (bs : List Bool) : Instr := .pushb (BitVec.ofNat 5 bs.length) (BitVec.ofNat 16 (bitsToNat bs))

/-- The PUSHB commands of a bit string, at most `fuel` of them. -/
def pushsFor : Nat → List Bool → List Instr
  | 0, _ => []
  | fuel + 1, bs =>
    if bs = [] then []
    else pushOf (bs.take Config.pushMax) :: pushsFor fuel (bs.drop Config.pushMax)

/-- `PUSHS "bits"`: as few PUSHB commands as carry the bits, 16 each but the last (R111). -/
def pushs (bs : List Bool) : List Instr := pushsFor bs.length bs

/-- `WLLREP sym, len, k`: the same WLL 2^(k - len) times (R112). -/
def wllrep (sym : Symbol) (len : BitVec 4) (k : Nat) : List Instr := List.replicate (2 ^ (k - len.toNat)) (.wll sym len)

/-- `DECODE "bits"`: a whole session (R113). -/
def decodeSession (bs : List Bool) : List Instr := .start :: pushs bs ++ [.eos]

/-! ### The text of a line -/

/-- A token of a line. -/
inductive Token where
  /-- A mnemonic or a number. -/
  | word (cs : List Char)
  /-- A quoted character. -/
  | char (c : Char)
  /-- A quoted string of bits. -/
  | bits (cs : List Char)
  /-- A comma. -/
  | comma
deriving DecidableEq, Repr

/-- The double quote. -/
def doubleQuote : Char := Char.ofNat 34

/-- The single quote. -/
def singleQuote : Char := Char.ofNat 39

/-- End the word being read, if there is one. -/
def flushWord (acc : List Char) (ts : List Token) : List Token :=
  if acc = [] then ts else .word acc.reverse :: ts

/-- Split a line into tokens; a semicolon starts a comment (R110). `str` is the quoted string being read, reversed;
`acc` the word being read, reversed. -/
def lexFrom (str : Option (List Char)) (acc : List Char) : List Char → Option (List Token)
  | [] => if str.isSome then none else some (flushWord acc [])
  | c :: rest =>
    match str with
    | some q =>
      if c = doubleQuote then (lexFrom none [] rest).map (.bits q.reverse :: ·)
      else lexFrom (some (c :: q)) acc rest
    | none =>
      if c = ';' then some (flushWord acc [])
      else if c = ' ' ∨ c = Char.ofNat 9 then (lexFrom none [] rest).map (flushWord acc)
      else if c = ',' then (lexFrom none [] rest).map fun ts => flushWord acc (.comma :: ts)
      else if c = doubleQuote then (lexFrom (some []) [] rest).map (flushWord acc)
      else if c = singleQuote then
        match rest with
        | d :: e :: rest' =>
          if e = singleQuote then (lexFrom none [] rest').map fun ts => flushWord acc (.char d :: ts) else none
        | _ => none
      else lexFrom none (c :: acc) rest

/-- The tokens of a line. -/
def lex (line : List Char) : Option (List Token) := lexFrom none [] line

/-- The value of a digit in a base up to 16. -/
def digitValue (base : Nat) (c : Char) : Option Nat :=
  let v := if '0' ≤ c ∧ c ≤ '9' then some (c.toNat - 48)
    else if 'a' ≤ c ∧ c ≤ 'f' then some (c.toNat - 87)
    else if 'A' ≤ c ∧ c ≤ 'F' then some (c.toNat - 55)
    else none
  v.filter (· < base)

/-- The value of a non-empty string of digits, with `acc` in front of them. -/
def digits (base : Nat) : List Char → Nat → Option Nat
  | [], acc => some acc
  | c :: cs, acc =>
    match digitValue base c with
    | some d => digits base cs (acc * base + d)
    | none => none

/-- A number: hexadecimal after 0x, binary after 0b, decimal otherwise (R110). -/
def number : List Char → Option Nat
  | '0' :: 'x' :: c :: cs => digits 16 (c :: cs) 0
  | '0' :: 'b' :: c :: cs => digits 2 (c :: cs) 0
  | c :: cs => digits 10 (c :: cs) 0
  | [] => none

/-- The bits of a quoted string; spaces are ignored (R111). -/
def quotedBits : List Char → Option (List Bool)
  | [] => some []
  | ' ' :: cs => quotedBits cs
  | '0' :: cs => (quotedBits cs).map (false :: ·)
  | '1' :: cs => (quotedBits cs).map (true :: ·)
  | _ :: _ => none

/-- An operand. -/
inductive Operand where
  /-- A number or the code of a quoted character. -/
  | num (n : Nat)
  /-- A quoted bit string. -/
  | bits (bs : List Bool)
deriving DecidableEq, Repr

/-- An operand of R110 from its token; a quoted character stands for its 8-bit code. -/
def operandOf : Token → Option Operand
  | .word cs => (number cs).map .num
  | .char c => if c.toNat < 256 then some (.num c.toNat) else none
  | .bits cs => (quotedBits cs).map .bits
  | .comma => none

/-- Operands separated by commas (R110). -/
def operandsFrom : List Token → Option (List Operand)
  | [] => none
  | [t] => (operandOf t).map ([·])
  | t :: .comma :: ts =>
    match operandOf t, operandsFrom ts with
    | some o, some os => some (o :: os)
    | _, _ => none
  | _ :: _ => none

/-- The operands after the mnemonic: none at all, or separated by commas. -/
def operands (ts : List Token) : Option (List Operand) := if ts = [] then some [] else operandsFrom ts

/-- A number as a field, if it fits; the assembler never truncates (R110). -/
def fit (w n : Nat) : Option (BitVec w) := if n < 2 ^ w then some (BitVec.ofNat w n) else none

/-- A number as a one-bit field. -/
def fitBit (n : Nat) : Option Bool := (fit 1 n).map (· == 1)

/-- CFG with its operands as numbers (R110). -/
def cfgOf (root k lutEn irqEn : Nat) : Option Instr :=
  match fit 12 root, fit 4 k, fitBit lutEn, fitBit irqEn with
  | some r, some k', some l, some q => some (.cfg r k' l q)
  | _, _, _, _ => none

/-- The commands a mnemonic and its operands stand for (R110 to R113); none is an assembly error (R114). -/
def commandsOf (mnemonic : List Char) (os : List Operand) : Option (List Instr) :=
  let one (i : Option Instr) : Option (List Instr) := i.map ([·])
  match mnemonic, os with
  | ['N', 'O', 'P'], [] => some [.nop]
  | ['S', 'E', 'T', 'N', 'P'], [.num a] => one ((fit 12 a).map .setnp)
  | ['W', 'N', 'I'], [.num l, .num r] => one ((fit 12 l).bind fun l' => (fit 12 r).map (.wni l' ·))
  | ['W', 'N', 'L'], [.num s] => one ((fit 16 s).map .wnl)
  | ['S', 'E', 'T', 'L', 'P'], [.num a] => one ((fit 10 a).map .setlp)
  | ['W', 'L', 'L'], [.num s, .num n] => one ((fit 16 s).bind fun s' => (fit 4 n).map (.wll s' ·))
  | ['W', 'L', 'N'], [.num n] => one ((fit 12 n).map .wln)
  | ['W', 'L', 'X'], [] => some [.wlx]
  | ['C', 'F', 'G'], [.num r] => one (cfgOf r 0 0 0)
  | ['C', 'F', 'G'], [.num r, .num k] => one (cfgOf r k 0 0)
  | ['C', 'F', 'G'], [.num r, .num k, .num l] => one (cfgOf r k l 0)
  | ['C', 'F', 'G'], [.num r, .num k, .num l, .num q] => one (cfgOf r k l q)
  | ['S', 'T', 'A', 'R', 'T'], [] => some [.start]
  | ['P', 'U', 'S', 'H', 'B'], [.num c, .num d] => one ((fit 5 c).bind fun c' => (fit 16 d).map (.pushb c' ·))
  | ['E', 'O', 'S'], [] => some [.eos]
  | ['A', 'B', 'O', 'R', 'T'], [] => some [.abort]
  | ['P', 'U', 'S', 'H', 'S'], [.bits bs] => if bs = [] then none else some (pushs bs)
  | ['W', 'L', 'L', 'R', 'E', 'P'], [.num s, .num n, .num k] =>
    if 1 ≤ n ∧ n ≤ k ∧ k ≤ Config.kMax then
      (fit 16 s).bind fun s' => (fit 4 n).map fun n' => wllrep s' n' k
    else none
  | ['D', 'E', 'C', 'O', 'D', 'E'], [.bits bs] => if bs = [] then none else some (decodeSession bs)
  | _, _ => none

/-- One line: the words it emits, none for an assembly error (R110, R114). A line of blanks or comment emits nothing. -/
def assembleLine (line : List Char) : Option (List Word) :=
  match lex line with
  | none => none
  | some [] => some []
  | some (.word mnemonic :: ts) => ((operands ts).bind (commandsOf mnemonic)).map (·.map encode)
  | some (_ :: _) => none

/-- A program: one command a line (R110); an error in any line is an error. -/
def assemble : List (List Char) → Option (List Word)
  | [] => some []
  | l :: ls =>
    match assembleLine l, assemble ls with
    | some ws, some rest => some (ws ++ rest)
    | _, _ => none

end Sys2Proof.Machine
end

