-- ==== Sys2Proof/Safety.lean ====
section
/-! DEFINITION. The terms claims are made in: the invariants of the machine (R22, R25, R32, R35, R44), well-formed tree
images (R174), consistent LUTs (R175), and sessions. -/

namespace Sys2Proof.Machine

/-! ### Invariants -/

/-- A session is open: the walker may step (R163). -/
def active (s : State) : Prop := s.sess = .run ∨ s.sess = .drain

/-- The machine's invariant: what every reachable state satisfies. -/
structure State.Inv (s : State) : Prop where
  /-- Both tables are in canonical form. -/
  memory : Memory.wf s = true
  /-- CFG never holds LUT_EN = 1 with K outside 1..10 (R22). -/
  cfgLegal : cfgLegal s.cfg.k s.cfg.lutEn = true
  /-- At a boundary of an open session the walker stands at the root (R35, first invariant). -/
  atRoot : active s → s.depth = 0 → s.cur = s.cfg.root
  /-- Inside a codeword it stands at an internal node (R35, second invariant). -/
  inside : active s → s.depth ≠ 0 → ∃ left right, nodeRead s.cur s = some (.internal left right)
  /-- In RUN, EOS_SEEN is 0 (R164). -/
  eosInRun : s.sess = .run → s.eosSeen = false
  /-- In DRAIN, EOS_SEEN is 1 (R164). -/
  eosInDrain : s.sess = .drain → s.eosSeen = true
  /-- depth is 0..4094 (R32). -/
  depthBound : s.depth.toNat ≤ 4094
  /-- ERR_CODE is 0 exactly when no error is recorded (R29). -/
  errorRecorded : s.sess = .error ↔ s.errCode ≠ 0
  /-- A recorded error has one of the codes of R200. -/
  errorNamed : s.sess = .error → ∃ e : ErrName, s.errCode = e.code
  /-- In IDLE and DONE no bits are pending and no codeword is in progress (R142, R145, R171). -/
  settled : s.sess = .idle ∨ s.sess = .done → s.bitq = [] ∧ s.depth = 0

/-- Neither queue exceeds its capacity (R44). -/
def QueuesBounded (s : State) : Prop := s.bitq.length ≤ Config.bitqDepth ∧ s.outq.length ≤ Config.outqDepth

/-! ### Resets and the steps they can replace -/

/-- The step from `s` to `t` belongs to a reset: an edge with `rst_n` low, or `rst_n` goes low for the next reset on the
agenda, which is gone then with what stood before it. -/
def ByReset (s t : State) : Prop :=
  rstN s = false ∨ ∃ more rest, afterReset s.agenda = some (more, rest) ∧ t.agenda = rest

/-- The step from `s` to `t` is the effect of the oldest accepted word. -/
def ByEffect (s t : State) : Prop :=
  ∃ w rest u, s.accepted = w :: rest ∧ execute w { s with accepted := rest } = .next u ∧ t = { u with draws := t.draws }

/-- The step from `s` to `t` is a walker step. -/
def ByWalker (s t : State) : Prop := ∃ u, walkerStep s = some (.next u) ∧ t = { u with draws := t.draws }

/-- A step from `s` with `rst_n` high answers `t`; where a reset is to come, it answers `t` or that `rst_n` goes low, and a
free choice is counted; with `rst_n` low it is an edge of the reset. -/
def StepsTo (s t : State) : Prop :=
  (rstN s = false → step s = .next (resetEdge s)) ∧
  (rstN s = true → afterReset s.agenda = none → step s = .next t) ∧
  (∀ more rest, rstN s = true → afterReset s.agenda = some (more, rest) →
    step s = .next { t with draws := t.draws + 1 } ∨
    step s = .next { lowerRst more rest s with draws := s.draws + 1 })

/-- The block stands still in `s`; only a reset, in progress or to come, moves it. -/
def Waits (s : State) : Prop :=
  (rstN s = false → step s = .next (resetEdge s)) ∧
  (rstN s = true → afterReset s.agenda = none → step s = .next s) ∧
  (∀ more rest, rstN s = true → afterReset s.agenda = some (more, rest) → step s = .next (lowerRst more rest s))

/-! ### Illegal words -/

/-- A reserved bit of the word's format is 1, by the table of formats (R91, R93). -/
def reservedBitSet (w : Word) : Prop :=
  match (field w 24 8).toNat with
  | 0x00 | 0x07 | 0x09 | 0x0B | 0x0C => field w 0 24 ≠ 0
  | 0x01 | 0x06 => field w 12 12 ≠ 0
  | 0x03 => field w 16 8 ≠ 0
  | 0x04 => field w 10 14 ≠ 0
  | 0x05 => field w 20 4 ≠ 0
  | 0x08 => field w 18 6 ≠ 0
  | 0x0A => field w 21 3 ≠ 0
  | _ => False

/-- The encoding of one row of the opcode map, whose reserved bits are the `len` bits from bit `lo` on: a word with this
opcode byte and zeros there decodes to the fields `fields` takes from it (R91, R92); a word with this opcode byte and a 1
there raises ILLEGAL_CMD, with the word as ERR_INFO (R93). -/
def RowEncoding (op : BitVec 8) (lo len : Nat) (fields : Word → Instr) : Prop :=
  ∀ w : Word, field w 24 8 = op →
    (field w lo len = 0 → (fields w).wellFormed = true → decode w = .ok (fields w)) ∧
    (field w lo len ≠ 0 → ∀ s : State, execute w s = .next (raise .illegalCmd w s))

/-! ### Tree images and LUTs -/

/-- The node reached from a node by a string of branch bits, 0 for left and 1 for right (R174). -/
def descend (s : State) : NodeIdx → List Bool → Option NodeIdx
  | i, [] => some i
  | i, b :: bs =>
    match nodeRead i s with
    | some (.internal left right) => descend s (if b then right else left) bs
    | some (.leaf _) | none => none

/-- `bits` is the codeword of a reachable leaf with symbol `sym` (R174). -/
def IsCodeword (s : State) (root : NodeIdx) (bits : List Bool) (sym : Symbol) : Prop :=
  ∃ i, descend s root bits = some i ∧ nodeRead i s = some (.leaf sym)

/-- The node memory holds a well-formed tree image for `root` (R174). Its third condition is automatic. -/
structure WellFormedImage (s : State) (root : NodeIdx) : Prop where
  /-- Every reachable entry is written. -/
  written : ∀ p i, descend s root p = some i → nodeRead i s ≠ none
  /-- No entry is reachable by two different paths (and so none from itself). -/
  noSharing : ∀ p q i, descend s root p = some i → descend s root q = some i → p = q
  /-- The symbols of the reachable leaves are pairwise distinct. -/
  distinct : ∀ p q sym, IsCodeword s root p sym → IsCodeword s root q sym → p = q

/-- The LUT is consistent with the image at `root` for width `k` (R175). The K-bit strings stand for the indexes they
are read as (R70). -/
structure ConsistentLut (s : State) (root : NodeIdx) (k : Nat) : Prop where
  /-- A leaf reached after L ≤ K bits; at exactly K bits an LNode that names the leaf is also accepted. -/
  leafHit : ∀ (bits : List Bool) (len : Nat) (i : NodeIdx) (sym : Symbol), bits.length = k → len ≤ k →
    descend s root (bits.take len) = some i → nodeRead i s = some (.leaf sym) →
    lutRead (BitVec.ofNat 10 (bitsToNat bits)) s = some (.lleaf sym (BitVec.ofNat 4 len)) ∨
    (len = k ∧ lutRead (BitVec.ofNat 10 (bitsToNat bits)) s = some (.lnode i))
  /-- An internal node reached after all K bits. -/
  nodeHit : ∀ (bits : List Bool) (i left right : NodeIdx), bits.length = k →
    descend s root bits = some i → nodeRead i s = some (.internal left right) →
    lutRead (BitVec.ofNat 10 (bitsToNat bits)) s = some (.lnode i)

/-! ### Sessions -/

/-- A command that only feeds bits: PUSHB with a legal count, or NOP (R176 to R178). -/
def feeds : Instr → Bool
  | .pushb cnt _ => pushCountOk cnt
  | .nop => true
  | .setnp _ | .wni _ _ | .wnl _ | .setlp _ | .wll _ _ | .wln _ | .wlx | .cfg _ _ _ _ | .start | .eos | .abort => false

/-- The bits a feeding command carries. -/
def carried : Instr → List Bool
  | .pushb cnt data => streamBits cnt.toNat data
  | .nop | .setnp _ | .wni _ _ | .wnl _ | .setlp _ | .wll _ _ | .wln _ | .wlx | .cfg _ _ _ _ | .start | .eos
  | .abort => []

/-- The concatenation of the bits that the commands carry (R69). -/
def carriedBits (is : List Instr) : List Bool := is.flatMap carried

/-- Every one of the commands feeds. -/
def allFeed (is : List Instr) : Bool := is.all feeds

/-- A session: START, then the feeding commands, then EOS (R176 to R178). -/
def session (feed : List Instr) : List Instr := .start :: (feed ++ [.eos])

/-- The state with BITQ left out: what R177 calls the end state, in which the bits that an error left unconsumed do not
count. -/
def State.exceptBitq (s : State) : State := { s with bitq := [] }

/-- What R160 compares: everything but the outside, the records taken and those still in OUTQ as one sequence. -/
def State.observed (s : State) : State :=
  { s with outq := [], taken := s.taken ++ s.outq, agenda := [], accepted := [], statData := 0, draws := 0, lowEdges := 0,
           readyIn := 0 }

/-- The command words that the host is to offer, in order (R249). -/
def offersAhead (es : List HostEvent) : List Word :=
  es.filterMap fun e => match e with
    | .command w => some w
    | .outReady | .statusRead _ | .reset _ => none

/-- The command words that have not taken effect, in order: those accepted, then those to be offered (R249). -/
def commandsAhead (s : State) : List Word := s.accepted ++ offersAhead s.agenda

end Sys2Proof.Machine
end

