-- ==== Sys2Proof/Certificates/Slice0/Obligations.lean ====
section
/-! DEFINITION. The statements for the provers, by the files of spec/. Each docstring names the rule it formalises. -/

open Sys2Proof Sys2Proof.Machine

/-! ### 30_encoding.md -/

/-- R97, R91: decoding the word of a well-formed command gives it back, every field at every value. -/
def Obligations.DecodeOfEncode : Prop := ∀ i : Instr, i.wellFormed = true → decode (encode i) = .ok i

/-- R97, R91: a word that decodes is the word of the command it decodes to: no bit of a word is dropped. -/
def Obligations.EncodeOfDecode : Prop :=
  ∀ (w : Word) (i : Instr), decode w = .ok i → encode i = w ∧ i.wellFormed = true

/-- R92: the table's rows, of which one or none selects a word; a word that no row selects is illegal. -/
def Obligations.AtMostOneRowSelects : Prop :=
  ([Opcode.nop, .setnp, .wni, .wnl, .setlp, .wll, .wln, .wlx, .cfg, .start, .pushb, .eos, .abort].map
      fun op => (op.matchWord, op.mask)) =
    [(0x00000000, 0xFFFFFFFF), (0x01000000, 0xFFFFF000), (0x02000000, 0xFF000000), (0x03000000, 0xFFFF0000),
     (0x04000000, 0xFFFFFC00), (0x05000000, 0xFFF00000), (0x06000000, 0xFFFFF000), (0x07000000, 0xFFFFFFFF),
     (0x08000000, 0xFFFC0000), (0x09000000, 0xFFFFFFFF), (0x0A000000, 0xFFE00000), (0x0B000000, 0xFFFFFFFF),
     (0x0C000000, 0xFFFFFFFF)] ∧
  (∀ (w : Word) (a b : Opcode), w &&& a.mask = a.matchWord → w &&& b.mask = b.matchWord → a = b) ∧
  (∀ w : Word, (∀ op : Opcode, w &&& op.mask ≠ op.matchWord) → ∃ why, decode w = .error why)

/-- R207, R93: a word is illegal exactly when its opcode is reserved, a reserved bit of its format is 1, or it is a PUSHB
with a count outside 1..16; outside ERROR it then raises ILLEGAL_CMD with the word as ERR_INFO and does nothing else, and in
ERROR it is discarded. -/
def Obligations.IllegalWordsRaise : Prop :=
  ∀ (w : Word) (s : State),
    ((∃ why, decode w = .error why) ↔
      0x0C < (field w 24 8).toNat ∨ reservedBitSet w ∨
      (field w 24 8 = 0x0A#8 ∧ ((field w 16 5).toNat = 0 ∨ 16 < (field w 16 5).toNat))) ∧
    ((∃ why, decode w = .error why) → s.sess ≠ .error →
      execute w s = .next { s with errCode := 8, errInfo := w, sess := .error, outq := s.outq ++ [.err 8] }) ∧
    ((∃ why, decode w = .error why) → s.sess = .error → execute w s = .next s)

/-- Words written out from the encodings of 30_encoding.md and 95_test_vectors.md (E1, E3, E5, E10, E22, N2, S12, P3)
decode to the commands they stand for. -/
def Obligations.WrittenOutWordsDecode : Prop :=
  decode 0x00000000#32 = .ok .nop ∧
  decode 0x01000FFF#32 = .ok (.setnp 4095) ∧
  decode 0x02004003#32 = .ok (.wni 3 4) ∧
  decode 0x050AFFFF#32 = .ok (.wll 0xFFFF 10) ∧
  decode 0x08013012#32 = .ok (.cfg 18 3 true false) ∧
  decode 0x0A108001#32 = .ok (.pushb 16 0x8001) ∧
  decode 0x0A200000#32 = .error (.reservedBit .pushb) ∧
  decode 0xFF000000#32 = .error .reservedOpcode

/-! ### 40_tree_load.md and 41_lut_load.md -/

/-- R120: SETNP writes NP and nothing else; WRONG_STATE in RUN; its encoding. -/
def Obligations.SetnpSetsNodePointer : Prop :=
  (∀ (addr : NodeIdx) (s : State),
    (s.sess ≠ .run → s.sess ≠ .drain → exec (.setnp addr) s = .next { s with np := addr }) ∧
    (s.sess = .run → exec (.setnp addr) s = .next (raise .wrongState (encode (.setnp addr)) s))) ∧
  RowEncoding 0x01 12 12 (fun w => .setnp (field w 0 12))

/-- R121: WNI writes the entry at the old NP and NP, nothing else; WRONG_STATE in RUN; its encoding, which has no
reserved bits. -/
def Obligations.WniWritesInternalNode : Prop :=
  ∀ (left right : NodeIdx) (s : State),
    (s.sess ≠ .run → s.sess ≠ .drain → ∃ t, exec (.wni left right) s = .next t ∧
      nodeRead s.np t = some (.internal left right) ∧ (∀ k, k ≠ s.np → nodeRead k t = nodeRead k s) ∧
      t = { s with nodes := t.nodes, np := s.np + 1 }) ∧
    (s.sess = .run → exec (.wni left right) s = .next (raise .wrongState (encode (.wni left right)) s)) ∧
    (∀ w : Word, field w 24 8 = 0x02#8 → decode w = .ok (.wni (field w 0 12) (field w 12 12)))

/-- R122: WNL writes a leaf at the old NP and NP, nothing else; WRONG_STATE in RUN; its encoding. -/
def Obligations.WnlWritesLeaf : Prop :=
  (∀ (sym : Symbol) (s : State),
    (s.sess ≠ .run → s.sess ≠ .drain → ∃ t, exec (.wnl sym) s = .next t ∧
      nodeRead s.np t = some (.leaf sym) ∧ (∀ k, k ≠ s.np → nodeRead k t = nodeRead k s) ∧
      t = { s with nodes := t.nodes, np := s.np + 1 }) ∧
    (s.sess = .run → exec (.wnl sym) s = .next (raise .wrongState (encode (.wnl sym)) s))) ∧
  RowEncoding 0x03 16 8 (fun w => .wnl (field w 0 16))

/-- R130: SETLP writes LP and nothing else; WRONG_STATE in RUN; its encoding. -/
def Obligations.SetlpSetsLutPointer : Prop :=
  (∀ (idx : LutIdx) (s : State),
    (s.sess ≠ .run → s.sess ≠ .drain → exec (.setlp idx) s = .next { s with lp := idx }) ∧
    (s.sess = .run → exec (.setlp idx) s = .next (raise .wrongState (encode (.setlp idx)) s))) ∧
  RowEncoding 0x04 10 14 (fun w => .setlp (field w 0 10))

/-- R131: WLL writes a leaf hit at the old LP, of any length, and LP, nothing else; WRONG_STATE in RUN; its encoding. -/
def Obligations.WllWritesLeafHit : Prop :=
  (∀ (sym : Symbol) (len : BitVec 4) (s : State),
    (s.sess ≠ .run → s.sess ≠ .drain → ∃ t, exec (.wll sym len) s = .next t ∧
      lutRead s.lp t = some (.lleaf sym len) ∧ (∀ k, k ≠ s.lp → lutRead k t = lutRead k s) ∧
      t = { s with lut := t.lut, lp := s.lp + 1 }) ∧
    (s.sess = .run → exec (.wll sym len) s = .next (raise .wrongState (encode (.wll sym len)) s))) ∧
  RowEncoding 0x05 20 4 (fun w => .wll (field w 0 16) (field w 16 4))

/-- R132: WLN writes a continue-at-node entry at the old LP, of any node, and LP, nothing else; WRONG_STATE in RUN; its
reserved bits. -/
def Obligations.WlnWritesNodeHit : Prop :=
  (∀ (node : NodeIdx) (s : State),
    (s.sess ≠ .run → s.sess ≠ .drain → ∃ t, exec (.wln node) s = .next t ∧
      lutRead s.lp t = some (.lnode node) ∧ (∀ k, k ≠ s.lp → lutRead k t = lutRead k s) ∧
      t = { s with lut := t.lut, lp := s.lp + 1 }) ∧
    (s.sess = .run → exec (.wln node) s = .next (raise .wrongState (encode (.wln node)) s))) ∧
  RowEncoding 0x06 12 12 (fun w => .wln (field w 0 12))

/-- R133: WLX writes an invalid entry at the old LP and LP, nothing else; WRONG_STATE in RUN; its encoding. -/
def Obligations.WlxWritesInvalidEntry : Prop :=
  (∀ s : State,
    (s.sess ≠ .run → s.sess ≠ .drain → ∃ t, exec .wlx s = .next t ∧
      lutRead s.lp t = some .linvalid ∧ (∀ k, k ≠ s.lp → lutRead k t = lutRead k s) ∧
      t = { s with lut := t.lut, lp := s.lp + 1 }) ∧
    (s.sess = .run → exec .wlx s = .next (raise .wrongState (encode .wlx) s))) ∧
  RowEncoding 0x07 0 24 (fun _ => .wlx)

/-! ### 42_session.md -/

/-- R141: CFG writes CFG and nothing else where LUT_EN and K may stand together; otherwise BAD_CFG, CFG unchanged;
WRONG_STATE in RUN; its encoding. -/
def Obligations.CfgWritesConfiguration : Prop :=
  (∀ (root : NodeIdx) (k : BitVec 4) (lutEn irqEn : Bool) (s : State),
    (s.sess ≠ .run → s.sess ≠ .drain → lutEn = false ∨ (1 ≤ k.toNat ∧ k.toNat ≤ 10) →
      exec (.cfg root k lutEn irqEn) s = .next { s with cfg := ⟨root, k, lutEn, irqEn⟩ }) ∧
    (s.sess ≠ .run → s.sess ≠ .drain → lutEn = true → k.toNat = 0 ∨ 10 < k.toNat →
      exec (.cfg root k lutEn irqEn) s = .next (raise .badCfg (encode (.cfg root k lutEn irqEn)) s)) ∧
    (s.sess = .run →
      exec (.cfg root k lutEn irqEn) s = .next (raise .wrongState (encode (.cfg root k lutEn irqEn)) s))) ∧
  RowEncoding 0x08 18 6 (fun w => .cfg (field w 0 12) (field w 12 4) (flag w 16) (flag w 17))

/-- R142: START opens a session; what it leaves alone; WRONG_STATE in RUN; its encoding. -/
def Obligations.StartOpensSession : Prop :=
  (∀ s : State,
    (s.sess ≠ .run → s.sess ≠ .drain → exec .start s = .next
      { s with bitq := [], eosSeen := false, cur := s.cfg.root, depth := 0, symCount := 0, bitCount := 0,
               errCode := 0, errInfo := 0, sess := .run }) ∧
    (s.sess = .run → exec .start s = .next (raise .wrongState (encode .start) s))) ∧
  RowEncoding 0x09 0 24 (fun _ => .start)

/-- R143: PUSHB in RUN appends the bits w[c-1], ..., w[0] of its word, in that order, and does nothing else; WRONG_STATE
in IDLE and DONE; discarded in ERROR; accepted, it waits while BITQ lacks the places; its encoding; its bad counts are
illegal. -/
def Obligations.PushbAppendsBits : Prop :=
  (∀ (cnt : BitVec 5) (data : BitVec 16) (s : State), 1 ≤ cnt.toNat → cnt.toNat ≤ 16 →
    (s.sess = .run → exec (.pushb cnt data) s = .next { s with
      bitq := s.bitq ++ (List.range cnt.toNat).map fun j => (encode (.pushb cnt data)).getLsbD (cnt.toNat - 1 - j) }) ∧
    (s.sess = .idle ∨ s.sess = .done →
      exec (.pushb cnt data) s = .next (raise .wrongState (encode (.pushb cnt data)) s)) ∧
    (s.sess = .error → exec (.pushb cnt data) s = .next s) ∧
    (∀ rest, s.sess = .run → s.accepted = encode (.pushb cnt data) :: rest →
      Config.bitqDepth < s.bitq.length + cnt.toNat → portMove s = none)) ∧
  RowEncoding 0x0A 21 3 (fun w => .pushb (field w 16 5) (field w 0 16)) ∧
  (∀ (w : Word) (s : State), field w 24 8 = 0x0A#8 → (field w 16 5).toNat = 0 ∨ 16 < (field w 16 5).toNat →
    execute w s = .next (raise .illegalCmd w s))

/-- R144: EOS in RUN sets EOS_SEEN and DRAIN; WRONG_STATE in IDLE and DONE; discarded in ERROR; its encoding. -/
def Obligations.EosMarksEnd : Prop :=
  (∀ s : State,
    (s.sess = .run → exec .eos s = .next { s with eosSeen := true, sess := .drain }) ∧
    (s.sess = .idle ∨ s.sess = .done → exec .eos s = .next (raise .wrongState (encode .eos) s)) ∧
    (s.sess = .error → exec .eos s = .next s)) ∧
  RowEncoding 0x0B 0 24 (fun _ => .eos)

/-- R145: ABORT ends any session without a record and keeps the counters and OUTQ; its encoding. -/
def Obligations.AbortClosesSession : Prop :=
  (∀ s : State, s.sess ≠ .drain → exec .abort s = .next
    { s with bitq := [], eosSeen := false, cur := s.cfg.root, depth := 0, errCode := 0, errInfo := 0, sess := .idle }) ∧
  RowEncoding 0x0C 0 24 (fun _ => .abort)

/-- R146: NOP leaves the whole state unchanged, in every state; its encoding. -/
def Obligations.NopChangesNothing : Prop :=
  (∀ s : State, exec .nop s = .next s) ∧ RowEncoding 0x00 0 24 (fun _ => .nop)

/-- The model's reading of R162 and R254 (log 8): a command other than NOP that met DRAIN would go on waiting,
accepted, and nothing else would happen. -/
def Obligations.CommandsWaitInDrain : Prop :=
  ∀ (i : Instr) (s : State), i.wellFormed = true → i ≠ .nop → s.sess = .drain →
    exec i s = .next { s with accepted := encode i :: s.accepted }

/-- R21: what each command may change, when it gives a next state: each element is unchanged but by the commands that
the rules of 40, 41 and 42 name, or by error entry; of the tables, only the entry at the write pointer. The accepted
words change only by a command that meets DRAIN and waits, which is the model's form of the hold (log 8). -/
def Obligations.CommandFrame : Prop :=
  ∀ (i : Instr) (s t : State), exec i s = .next t →
    (∀ k, nodeRead k t = nodeRead k s ∨ (k = s.np ∧ ((∃ l r, i = .wni l r) ∨ ∃ a, i = .wnl a))) ∧
    (∀ k, lutRead k t = lutRead k s ∨ (k = s.lp ∧ ((∃ a n, i = .wll a n) ∨ (∃ n, i = .wln n) ∨ i = .wlx))) ∧
    (t.np = s.np ∨ (∃ a, i = .setnp a) ∨ (∃ l r, i = .wni l r) ∨ ∃ a, i = .wnl a) ∧
    (t.lp = s.lp ∨ (∃ a, i = .setlp a) ∨ (∃ a n, i = .wll a n) ∨ (∃ n, i = .wln n) ∨ i = .wlx) ∧
    (t.cfg = s.cfg ∨ ∃ r k l q, i = .cfg r k l q) ∧
    (t.symCount = s.symCount ∧ t.bitCount = s.bitCount ∨ i = .start) ∧
    (t.cur = s.cur ∧ t.depth = s.depth ∨ i = .start ∨ i = .abort) ∧
    (t.eosSeen = s.eosSeen ∨ i = .start ∨ i = .abort ∨ i = .eos) ∧
    (t.bitq = s.bitq ∨ i = .start ∨ i = .abort ∨ ∃ c d, i = .pushb c d) ∧
    (t.sess = s.sess ∨ t.sess = .error ∨ i = .start ∨ i = .abort ∨ i = .eos) ∧
    (t.errCode = s.errCode ∧ t.errInfo = s.errInfo ∨ (s.sess ≠ .error ∧ t.sess = .error) ∨ i = .start ∨ i = .abort) ∧
    (t.outq = s.outq ∨ (s.sess ≠ .error ∧ t.sess = .error ∧ t.outq = s.outq ++ [.err t.errCode])) ∧
    (t.accepted = s.accepted ∨ s.sess = .drain) ∧
    t.agenda = s.agenda ∧ t.taken = s.taken ∧ t.statData = s.statData ∧ t.draws = s.draws ∧ t.lowEdges = s.lowEdges ∧
    t.readyIn = s.readyIn

/-! ### 20_memory.md -/

/-- R62, R66: a table write replaces the entry at its index with what was written, written bit and all, and no other
entry changes; a second write overwrites the first; and no step but a reset takes a written bit back. -/
def Obligations.TableWriteReplacesOneEntry : Prop :=
  (∀ (s : State) (i : NodeIdx) (e : Node),
    nodeRead i { s with nodes := tableWrite s.nodes i.toNat e } = some e ∧
    (∀ k, k ≠ i → nodeRead k { s with nodes := tableWrite s.nodes i.toNat e } = nodeRead k s) ∧
    (∀ f, tableWrite (tableWrite s.nodes i.toNat f) i.toNat e = tableWrite s.nodes i.toNat e)) ∧
  (∀ (s : State) (i : LutIdx) (e : LutEntry),
    lutRead i { s with lut := tableWrite s.lut i.toNat e } = some e ∧
    (∀ k, k ≠ i → lutRead k { s with lut := tableWrite s.lut i.toNat e } = lutRead k s) ∧
    (∀ f, tableWrite (tableWrite s.lut i.toNat f) i.toNat e = tableWrite s.lut i.toNat e)) ∧
  (∀ s t : State, step s = .next t → ¬ ByReset s t →
    (∀ k, nodeRead k s ≠ none → nodeRead k t ≠ none) ∧ (∀ k, lutRead k s ≠ none → lutRead k t ≠ none))

/-- R70: the first n bits of BITQ, read as a LUT index: the sum of b_j * 2^(n-1-j). -/
def Obligations.PeekIsFirstBitFirst : Prop :=
  ∀ (s : State) (n : Nat), n ≤ s.bitq.length →
    (peek n s).length = n ∧ (∀ j, j < n → (peek n s)[j]? = s.bitq[j]?) ∧
    bitsToNat (peek n s) = ((List.range n).map fun j => (s.bitq.getD j false).toNat * 2 ^ (n - 1 - j)).sum

/-! ### 43_walker.md: the steps -/

/-- R171: the end of a session at a boundary. -/
def Obligations.FinishStepEmitsEnd : Prop :=
  ∀ s : State, active s → s.bitq = [] → s.eosSeen = true → s.depth = 0 →
    walkerStep s = some (.next { s with
      sess := .done, outq := s.outq ++ [.fin (s.symCount.extractLsb' 0 30)] }) ∧
    Record.word (.fin (s.symCount.extractLsb' 0 30)) = 0x40000000#32 ||| (s.symCount &&& 0x3FFFFFFF#32)

/-- R172: the end of the bits inside a codeword. -/
def Obligations.TruncatedInputStep : Prop :=
  ∀ s : State, active s → s.bitq = [] → s.eosSeen = true → s.depth ≠ 0 →
    walkerStep s = some (.next { s with
      errCode := 1, errInfo := s.bitCount, sess := .error, outq := s.outq ++ [.err 1] })

/-- R165: an unwritten root, LUT or not, with bits pending; without bits no node is read. -/
def Obligations.UnwrittenRootStep : Prop :=
  (∀ s : State, active s → s.bitq ≠ [] → s.depth = 0 → nodeRead s.cfg.root s = none →
    walkerStep s = some (.next { s with
      errCode := 2, errInfo := s.bitCount, sess := .error, outq := s.outq ++ [.err 2] })) ∧
  (∀ s : State, s.sess ≠ .run → s.sess ≠ .drain → nodeRead s.cfg.root s = none →
    ∃ t, loopCommands [.start, .eos] s = .next t ∧ t.sess = .done ∧ t.outq = s.outq ++ [.fin 0])

/-- R167: a leaf root consumes one placeholder bit of either value and emits its symbol, LUT or not. -/
def Obligations.DegenerateStepEmitsSymbol : Prop :=
  ∀ (s : State) (b : Bool) (rest : List Bool) (sym : Symbol), active s → s.bitq = b :: rest → s.depth = 0 →
    nodeRead s.cfg.root s = some (.leaf sym) →
    walkerStep s = some (.next { s with
      bitq := rest, bitCount := s.bitCount + 1, outq := s.outq ++ [.sym sym], symCount := s.symCount + 1,
      cur := s.cfg.root, depth := 0 })

/-- R168, R169, R170: one descent. The walker stands at an internal node: inside a codeword at `cur`, or at a boundary
at the root with the LUT off, or with fewer than K bits left after EOS (R166). The word of a SYM record is its symbol,
with zeros above it (R170, R74). -/
def Obligations.SerialStepDescends : Prop :=
  (∀ sym : Symbol, Record.word (.sym sym) = sym.setWidth 32) ∧
  ∀ (s : State) (b : Bool) (rest : List Bool) (left right nxt : NodeIdx), active s → s.bitq = b :: rest →
    (s.depth ≠ 0 ∧ nodeRead s.cur s = some (.internal left right)) ∨
      (s.depth = 0 ∧ nodeRead s.cfg.root s = some (.internal left right) ∧
        (s.cfg.lutEn = false ∨ (s.bitq.length < s.cfg.k.toNat ∧ s.eosSeen = true))) →
    nxt = (if b then right else left) →
    (nodeRead nxt s = none → walkerStep s = some (.next (raise .unwrittenNode s.bitCount s))) ∧
    (∀ sym, nodeRead nxt s = some (.leaf sym) → walkerStep s = some (.next { s with
      bitq := rest, bitCount := s.bitCount + 1, outq := s.outq ++ [.sym sym], symCount := s.symCount + 1,
      cur := s.cfg.root, depth := 0 })) ∧
    (∀ l r, nodeRead nxt s = some (.internal l r) → s.depth.toNat + 1 = 4095 →
      walkerStep s = some (.next (raise .depthOverflow s.bitCount s))) ∧
    (∀ l r, nodeRead nxt s = some (.internal l r) → s.depth.toNat + 1 ≠ 4095 → walkerStep s = some (.next { s with
      bitq := rest, bitCount := s.bitCount + 1, cur := nxt, depth := s.depth + 1 }))

/-- R173: one LUT lookup. -/
def Obligations.LutStepResolvesPrefix : Prop :=
  ∀ (s : State) (left right : NodeIdx) (k : Nat) (e : Option LutEntry), active s → s.depth = 0 →
    nodeRead s.cfg.root s = some (.internal left right) → s.cfg.lutEn = true → k = s.cfg.k.toNat → 1 ≤ k → k ≤ 10 →
    k ≤ s.bitq.length → e = lutRead (BitVec.ofNat 10 (bitsToNat (peek k s))) s →
    (e = none ∨ e = some .linvalid → walkerStep s = some (.next (raise .lutInvalid s.bitCount s))) ∧
    (∀ sym len, e = some (.lleaf sym len) →
      (len = 0 ∨ k < len.toNat → walkerStep s = some (.next (raise .lutBadLen s.bitCount s))) ∧
      (len ≠ 0 ∧ len.toNat ≤ k → walkerStep s = some (.next { s with
        bitq := s.bitq.drop len.toNat, bitCount := s.bitCount + BitVec.ofNat 32 len.toNat,
        outq := s.outq ++ [.sym sym], symCount := s.symCount + 1, cur := s.cfg.root, depth := 0 }))) ∧
    (∀ i, e = some (.lnode i) →
      (nodeRead i s = none → walkerStep s = some (.next (raise .unwrittenNode s.bitCount s))) ∧
      (∀ sym, nodeRead i s = some (.leaf sym) → walkerStep s = some (.next { s with
        bitq := s.bitq.drop k, bitCount := s.bitCount + BitVec.ofNat 32 k, outq := s.outq ++ [.sym sym],
        symCount := s.symCount + 1, cur := s.cfg.root, depth := 0 })) ∧
      (∀ l r, nodeRead i s = some (.internal l r) → walkerStep s = some (.next { s with
        bitq := s.bitq.drop k, bitCount := s.bitCount + BitVec.ofNat 32 k, cur := i, depth := BitVec.ofNat 12 k })))

/-- R181, R71, R73: a walker step writes BITQ by removing bits at the head, which it adds to BIT_COUNT, OUTQ by appending
one record at most, which it adds to SYM_COUNT if it is a SYM record, cur, depth, SESS, and by error entry ERR_CODE and
ERR_INFO, and nothing else. -/
def Obligations.WalkerFrame : Prop :=
  ∀ s t : State, walkerStep s = some (.next t) →
    t = { s with bitq := t.bitq, outq := t.outq, symCount := t.symCount, bitCount := t.bitCount, cur := t.cur,
                 depth := t.depth, sess := t.sess, errCode := t.errCode, errInfo := t.errInfo } ∧
    (∃ n, n ≤ s.bitq.length ∧ t.bitq = s.bitq.drop n ∧ t.bitCount = s.bitCount + BitVec.ofNat 32 n) ∧
    (∃ rs, rs.length ≤ 1 ∧ t.outq = s.outq ++ rs ∧
      t.symCount = s.symCount + BitVec.ofNat 32 (rs.countP Record.isSym)) ∧
    (t.errCode = s.errCode ∧ t.errInfo = s.errInfo ∨ ∃ e info, t = raise e info s)

/-! ### 43_walker.md: the walk -/

/-- R164: when the walker is quiescent. -/
def Obligations.QuiescenceIsThreeCases : Prop :=
  ∀ s : State, s.Inv →
    (quiescent s = true ↔
      (s.sess = .idle ∨ s.sess = .done ∨ s.sess = .error) ∨
      (s.sess = .run ∧ s.eosSeen = false ∧ s.bitq = []) ∨
      (s.sess = .run ∧ s.eosSeen = false ∧ s.depth = 0 ∧ (∃ l r, nodeRead s.cfg.root s = some (.internal l r)) ∧
        s.cfg.lutEn = true ∧ 0 < s.bitq.length ∧ s.bitq.length < s.cfg.k.toNat))

/-- R161: every enabled step consumes a bit or ends the session, and |BITQ| + 1 steps reach quiescence. -/
def Obligations.WalkReachesQuiescence : Prop :=
  ∀ s : State, s.Inv →
    (∀ t, walkerStep s = some (.next t) →
      t.bitq.length < s.bitq.length ∨ (¬ active t ∧ walkerStep t = none)) ∧
    (∀ n, s.bitq.length + 1 ≤ n → walkFor n s = walk s) ∧ quiescent (walk s) = true

/-- R162: the walk out of DRAIN ends in DONE or ERROR, and until then an accepted command other than NOP (which R254 lets
pass, and which does nothing) waits and holds the port, unless a reset strikes. -/
def Obligations.DrainIsNeverSeenByCommand : Prop :=
  ∀ s : State, s.Inv → s.sess = .drain →
    ((walk s).sess = .done ∨ (walk s).sess = .error) ∧
    (∀ w rest t, s.accepted = w :: rest → decode w ≠ .ok .nop → step s = .next t → ¬ ByReset s t →
      t.accepted = s.accepted)

/-! ### 60_exceptions.md -/

/-- R210: error entry; and the codes of R200. -/
def Obligations.ErrorEntry : Prop :=
  ([ErrName.truncatedInput, .unwrittenNode, .lutInvalid, .lutBadLen, .depthOverflow, .illegalCmd, .wrongState,
      .badCfg].map ErrName.code = [1, 2, 3, 4, 5, 8, 9, 10]) ∧
  ∀ (e : ErrName) (info : Word) (s : State),
    (s.sess = .error → raise e info s = s) ∧
    (s.sess ≠ .error → raise e info s = { s with
      errCode := e.code, errInfo := info, sess := .error, outq := s.outq ++ [.err e.code] }) ∧
    Record.word (.err e.code) = 0x80000000#32 ||| e.code.setWidth 32

/-- R211, R213: a step into ERROR is exactly error entry; the ERR_INFO is BIT_COUNT for an error of the walker, and the
word of the oldest accepted command for an error of a command. -/
def Obligations.ErrorsArePrecise : Prop :=
  ∀ s t : State, s.Inv → step s = .next t → s.sess ≠ .error → t.sess = .error →
    ∃ (e : ErrName) (info : Word),
      t = { s with errCode := e.code, errInfo := info, sess := .error, outq := s.outq ++ [.err e.code],
                   accepted := t.accepted, draws := t.draws } ∧
      ((e.code.toNat ≤ 5 ∧ info = s.bitCount ∧ t.accepted = s.accepted) ∨
       (8 ≤ e.code.toNat ∧ s.accepted = info :: t.accepted))

/-- R212: in ERROR the walker has no step, errors and the commands PUSHB and EOS are discarded, and while the block stays
in ERROR the first error stands and no record is added. -/
def Obligations.FirstErrorSticks : Prop :=
  ∀ s : State, s.sess = .error →
    walkerStep s = none ∧
    (∀ w why, decode w = .error why → execute w s = .next s) ∧
    (∀ c d, pushCountOk c = true → exec (.pushb c d) s = .next s) ∧ exec .eos s = .next s ∧
    (∀ r k q, k.toNat = 0 ∨ 10 < k.toNat → exec (.cfg r k true q) s = .next s) ∧
    (∀ t, step s = .next t → t.sess = .error →
      t.errCode = s.errCode ∧ t.errInfo = s.errInfo ∧ t.taken ++ t.outq = s.taken ++ s.outq)

/-- R217: the three ways out of ERROR, what each clears, and that `irq` drops. -/
def Obligations.ErrorIsLeftThreeWays : Prop :=
  ∀ s t : State, step s = .next t → s.sess = .error → t.sess ≠ .error →
    t.errCode = 0 ∧ t.errInfo = 0 ∧ t.bitq = [] ∧ t.eosSeen = false ∧ irq t = false ∧
    ((s.accepted = encode .start :: t.accepted ∧ t.sess = .run ∧ t.symCount = 0 ∧ t.bitCount = 0) ∨
     (s.accepted = encode .abort :: t.accepted ∧ t.sess = .idle ∧
        t.symCount = s.symCount ∧ t.bitCount = s.bitCount) ∨
     (rstN s = false ∧ t.sess = .idle))

/-- R220: the interrupt line, at reset and in STATUS. -/
def Obligations.IrqIsAFunctionOfState : Prop :=
  (∀ s : State, irq s = true ↔ s.cfg.irqEn = true ∧ (s.sess = .done ∨ s.sess = .error)) ∧
  (∀ s : State, (statusPort s 1).getLsbD 5 = irq s) ∧ irq State.reset = false

/-- R222: when `irq` rises because a session reaches DONE or ERROR, the END or ERR record is already the last in OUTQ. -/
def Obligations.IrqRisesWithItsRecord : Prop :=
  ∀ s t : State, s.Inv → step s = .next t → irq s = false → irq t = true → s.sess ≠ t.sess →
    (t.sess = .done ∧ t.outq = s.outq ++ [.fin (s.symCount.extractLsb' 0 30)]) ∨
    (t.sess = .error ∧ t.outq = s.outq ++ [.err t.errCode])

/-! ### 10_state.md: the status port -/

/-- R38 to R43, R45: every field of every status register, with the encoding of SESS that STATE shows (R25); and the two
queue levels, as far as 32 bits hold them (R44; beyond, a free value, log 20). -/
def Obligations.StatusRegistersRead : Prop :=
  ([Sess.idle, .run, .drain, .done, .error].map Sess.code = [0, 1, 2, 3, 4]) ∧
  ∀ s : State,
    statusPort s 0x0 = 0x48445731 ∧
    (field (statusPort s 0x1) 0 3 = s.sess.code ∧ (statusPort s 0x1).getLsbD 3 = s.eosSeen ∧
      (statusPort s 0x1).getLsbD 4 = (s.depth == 0) ∧ (statusPort s 0x1).getLsbD 5 = irq s ∧
      field (statusPort s 0x1) 6 2 = 0 ∧ field (statusPort s 0x1) 8 8 = s.errCode ∧
      (statusPort s 0x1).getLsbD 16 = s.bitq.isEmpty ∧ (statusPort s 0x1).getLsbD 17 = s.outq.isEmpty ∧
      field (statusPort s 0x1) 18 14 = 0) ∧
    (field (statusPort s 0x2) 0 12 = s.cfg.root ∧ field (statusPort s 0x2) 12 4 = s.cfg.k ∧
      (statusPort s 0x2).getLsbD 16 = s.cfg.lutEn ∧ (statusPort s 0x2).getLsbD 17 = s.cfg.irqEn ∧
      field (statusPort s 0x2) 18 14 = 0) ∧
    (statusPort s 0x3 = s.errInfo ∧ statusPort s 0x4 = s.symCount ∧ statusPort s 0x5 = s.bitCount) ∧
    (field (statusPort s 0x6) 0 12 = s.np ∧ field (statusPort s 0x6) 12 4 = 0 ∧
      field (statusPort s 0x6) 16 10 = s.lp ∧ field (statusPort s 0x6) 26 6 = 0) ∧
    (field (statusPort s 0x7) 0 12 = s.cur ∧ field (statusPort s 0x7) 12 4 = 0 ∧
      field (statusPort s 0x7) 16 12 = s.depth ∧ field (statusPort s 0x7) 28 4 = 0) ∧
    (s.bitq.length < 2 ^ 32 → (statusPort s 0x8).toNat = s.bitq.length) ∧
    (s.outq.length < 2 ^ 32 → (statusPort s 0x9).toNat = s.outq.length) ∧
    (∀ a : BitVec 4, 10 ≤ a.toNat → statusPort s a = 0)

/-- R37, R46: a status read has no side effect on the block, and shows a state on the walker's way: either it reads the
state now, or one walker step or the effect of an accepted command comes first; it reads the state now where neither can
happen now, the walker quiescent or stalled, an accepted word held or none. A reset that is to come can strike before it. -/
def Obligations.StatusReadShowsAStateOnTheWay : Prop :=
  ∀ (s : State) (a : BitVec 4) (rest : List HostEvent), s.agenda = .statusRead a :: rest →
    (∀ t, step s = .next t →
      t = { s with agenda := rest, statData := statusPort s a, draws := t.draws } ∨
      ByWalker s t ∨ ByEffect s t ∨ ByReset s t) ∧
    (walkerMove s = none → portMove s = none → StepsTo s { s with agenda := rest, statData := statusPort s a })

/-! ### 70_reset_and_hazards.md: reset, ports and hazards -/

/-- R241: the reset values, and the status port after reset. -/
def Obligations.ResetValues : Prop :=
  State.reset.cfg = ⟨0, 0, false, false⟩ ∧ State.reset.np = 0 ∧ State.reset.lp = 0 ∧ State.reset.sess = .idle ∧
  State.reset.eosSeen = false ∧ State.reset.symCount = 0 ∧ State.reset.bitCount = 0 ∧ State.reset.errCode = 0 ∧
  State.reset.errInfo = 0 ∧ State.reset.cur = 0 ∧ State.reset.depth = 0 ∧ State.reset.bitq = [] ∧
  State.reset.outq = [] ∧ (∀ i, nodeRead i State.reset = none) ∧ (∀ i, lutRead i State.reset = none) ∧
  irq State.reset = false ∧ statusPort State.reset 0 = 0x48445731 ∧ statusPort State.reset 1 = 0x00030010 ∧
  (∀ a : BitVec 4, 2 ≤ a.toNat → statusPort State.reset a = 0)

/-- R240, R243, R244: while `rst_n` is low, `cmd_ready` and `out_valid` are 0, and a step is an edge of the reset, which
gives every element its reset value; the words accepted have no effect, the records not taken are lost, and `cmd_ready` then
stays 0 for at most RESET_READY_CYCLES. With a reset to come, behind whatever else the host would do before it, a step can
be that `rst_n` goes low: it is where nothing else can move, and where the free choice `Config.resetFirst` says so. What
stood before the reset is then gone, and the block is as it was. The records taken and the last status word stay
(logs 5, 14, 21). -/
def Obligations.ResetEventRestoresReset : Prop :=
  (∀ s : State, rstN s = false →
    (∀ w, cmdReady w s = false) ∧ outValid s = false ∧ outData s = none ∧
    ∃ t, step s = .next t ∧ t.readyIn ≤ Config.resetReadyCycles ∧
      t = { State.reset with agenda := s.agenda, taken := s.taken, statData := s.statData, draws := t.draws,
                             lowEdges := s.lowEdges - 1, readyIn := t.readyIn }) ∧
  (∀ (s : State) (before rest : List HostEvent) (more : Nat), rstN s = true →
    s.agenda = before ++ .reset more :: rest → (∀ e ∈ before, ∀ n, e ≠ .reset n) →
    (∀ t, step s = .next t → t.agenda = rest →
      t = { s with agenda := rest, lowEdges := more + 1, draws := t.draws }) ∧
    (hostMove s = none → portMove s = none → walkerMove s = none →
      step s = .next { s with agenda := rest, lowEdges := more + 1 }) ∧
    ((∃ t, step s = .next t ∧ t.agenda = rest) ∨ Config.resetFirst s.draws = false))

/-- R250, R240: the OUT port, whether the walker is quiescent, runs or is stalled; with `rst_n` low it offers nothing. An
edge with `out_ready` takes the head record, if there is one. A walker step or the effect of an accepted command can come before it, where there is one, and
so can a reset that is to come. -/
def Obligations.OutPortTakesHead : Prop :=
  ∀ (s : State) (rest : List HostEvent), s.agenda = .outReady :: rest →
    (outValid s = true ↔ rstN s = true ∧ s.outq ≠ []) ∧
    (∀ r rs, s.outq = r :: rs → (rstN s = true → outData s = some r.word) ∧
      (walkerMove s = none → portMove s = none →
        StepsTo s { s with agenda := rest, outq := rs, taken := s.taken ++ [r] }) ∧
      (∀ t, step s = .next t →
        t = { s with agenda := rest, outq := rs, taken := s.taken ++ [r], draws := t.draws } ∨
        ByWalker s t ∨ ByEffect s t ∨ ByReset s t)) ∧
    (s.outq = [] →
      (walkerMove s = none → portMove s = none → StepsTo s { s with agenda := rest }) ∧
      (∀ t, step s = .next t →
        t = { s with agenda := rest, draws := t.draws } ∨ ByWalker s t ∨ ByEffect s t ∨ ByReset s t))

/-- R160, R163, R251, R228: where neither the host nor an accepted command has a move, a step is the walker's enabled
step, if OUTQ has room for what it emits; if it has none, the walker stalls and the block waits; and with no step enabled
the block waits. Where more than one can move, a step is one of the moves. While `rst_n` is low
none of this happens, but an edge of the reset (`StepsTo`, `Waits`, `ByReset`). -/
def Obligations.IdleBlockWaits : Prop :=
  (∀ s : State, rstN s = true → s.agenda = [] → s.accepted = [] → quiescent s = true → step s = .next s) ∧
  (∀ s : State, s.agenda = [] ∨ hostMove s = none → s.accepted = [] ∨ portMove s = none →
    (quiescent s = true → Waits s) ∧
    (∀ u, walkerStep s = some (.next u) →
      (u.outq.length ≤ s.outq.length ∨ u.outq.length ≤ Config.outqDepth → StepsTo s u) ∧
      (¬ (u.outq.length ≤ s.outq.length ∨ u.outq.length ≤ Config.outqDepth) → Waits s))) ∧
  (∀ s h u : State, rstN s = true → hostMove s = some (.next h) → s.accepted = [] ∨ portMove s = none →
    walkerStep s = some (.next u) →
    u.outq.length ≤ s.outq.length ∨ u.outq.length ≤ Config.outqDepth → afterReset s.agenda = none →
    step s = .next { h with draws := h.draws + 1 } ∨ step s = .next { u with draws := u.draws + 1 }) ∧
  (∀ s t : State, step s = .next t →
    ByReset s t ∨ (∃ h, hostMove s = some (.next h) ∧ t = { h with draws := t.draws }) ∨ ByEffect s t ∨ ByWalker s t ∨
    (t = s ∧ resetMove s = none ∧ hostMove s = none ∧ portMove s = none ∧ walkerMove s = none))

/-- R160, R97, R249, R251: with the walker quiescent a step runs the oldest accepted command, or raises ILLEGAL_CMD; where
the result would not fit the queues, the word waits. A word that is offered and could take effect at once is accepted, with
`rst_n` high, at once or when the cycles of R244 after a reset have passed. Accepting a word changes nothing of the block. A
reset that is to come can strike first. -/
def Obligations.StepRunsDecodedCommand : Prop :=
  (∀ (s t : State) (w : Word) (rest : List Word), s.accepted = w :: rest → s.agenda = [] ∨ hostMove s = none →
    quiescent s = true →
    ((∃ i, decode w = .ok i ∧ exec i { s with accepted := rest } = .next t) ∨
      ((∃ why, decode w = .error why) ∧ t = raise .illegalCmd w { s with accepted := rest })) →
    ((t.outq.length ≤ s.outq.length ∨ t.outq.length ≤ Config.outqDepth) ∧
        (t.bitq.length ≤ s.bitq.length ∨ t.bitq.length ≤ Config.bitqDepth) → StepsTo s t) ∧
    (¬ ((t.outq.length ≤ s.outq.length ∨ t.outq.length ≤ Config.outqDepth) ∧
        (t.bitq.length ≤ s.bitq.length ∨ t.bitq.length ≤ Config.bitqDepth)) → Waits s)) ∧
  (∀ (s t : State) (w : Word) (es : List HostEvent), rstN s = true → s.agenda = .command w :: es →
    s.accepted = [] → quiescent s = true → execute w s = .next t →
    (t.outq.length ≤ s.outq.length ∨ t.outq.length ≤ Config.outqDepth) ∧
        (t.bitq.length ≤ s.bitq.length ∨ t.bitq.length ≤ Config.bitqDepth) →
    (s.readyIn = 0 → cmdReady w s = true ∧ StepsTo s { s with agenda := es, accepted := [w] }) ∧
    (∀ n, s.readyIn = n + 1 → cmdReady w s = false ∧ StepsTo s { s with readyIn := n })) ∧
  (∀ (s t : State) (w : Word) (es : List HostEvent), s.agenda = .command w :: es → step s = .next t → t.agenda = es →
    ByReset s t ∨ t = { s with agenda := es, accepted := s.accepted ++ [w], draws := t.draws })

/-- R254: a command that takes effect before the walker is quiescent is a NOP, or a PUSHB or an EOS in RUN that raises no
error; every other command takes effect with the walker quiescent, and not in DRAIN, and until then it holds the port:
no word behind it is accepted. -/
def Obligations.HoldRule : Prop :=
  (∀ (s t : State) (w : Word) (rest : List Word), s.Inv → s.accepted = w :: rest → step s = .next t → ¬ ByReset s t →
    t.accepted = rest →
    (quiescent s = true ∧ s.sess ≠ .drain) ∨ decode w = .ok .nop ∨
    (s.sess = .run ∧ t.sess ≠ .error ∧ ((∃ c d, decode w = .ok (.pushb c d)) ∨ decode w = .ok .eos))) ∧
  (∀ (s t : State) (w : Word), w ∈ s.accepted → quiescent s = false →
    ¬ (decode w = .ok .nop ∨ (s.sess = .run ∧ ((∃ c d, decode w = .ok (.pushb c d)) ∨ decode w = .ok .eos))) →
    (∀ v, cmdReady v s = false) ∧ (step s = .next t → t.accepted.length ≤ s.accepted.length))

/-- R82, R248: no step but a reset changes a table, CFG or a write pointer while a session is open. -/
def Obligations.TablesFixedInSession : Prop :=
  ∀ s t : State, step s = .next t → active s → ¬ ByReset s t →
    t.nodes = s.nodes ∧ t.lut = s.lut ∧ t.cfg = s.cfg ∧ t.np = s.np ∧ t.lp = s.lp

/-- R79, R73: no step but a reset disturbs the records that have come out so far, taken or not; a step adds one at
most. -/
def Obligations.OutputStreamOnlyGrows : Prop :=
  ∀ s t : State, step s = .next t → ¬ ByReset s t →
    ∃ rs : List Record, rs.length ≤ 1 ∧ t.taken ++ t.outq = s.taken ++ s.outq ++ rs

/-- R253: the hang. OUTQ is full, the walker's next step would emit, an accepted PUSHB waits for more room than BITQ has,
and the host is done or waits to write another command: the block stands still, no word is accepted, and only a reset gets
it out (R243). -/
def Obligations.HostMustDrainOut : Prop :=
  ∀ (s u : State) (cnt : BitVec 5) (data : BitVec 16) (rest : List Word), pushCountOk cnt = true →
    s.accepted = encode (.pushb cnt data) :: rest → walkerStep s = some (.next u) →
    s.outq.length < u.outq.length → Config.outqDepth ≤ s.outq.length →
    Config.bitqDepth < s.bitq.length + cnt.toNat →
    (∀ w, cmdReady w s = false) ∧ (s.agenda = [] ∨ (∃ w es, s.agenda = .command w :: es) → Waits s)

/-! ### Invariants -/

/-- The machine's invariant holds at reset, and so do the queue bounds. -/
def Obligations.InvariantHoldsAtReset : Prop := State.reset.Inv ∧ QueuesBounded State.reset

/-- R35, with R22, R25, R29 and R32: every step from a state that meets the invariant answers a next state, and that
state meets it. -/
def Obligations.StepKeepsInvariant : Prop := ∀ s : State, s.Inv → ∃ t, step s = .next t ∧ t.Inv

/-- R44: no step takes a queue above its capacity. -/
def Obligations.QueuesStayWithinCapacity : Prop :=
  ∀ s t : State, QueuesBounded s → step s = .next t → QueuesBounded t

/-! ### Headlines -/

/-- R160: the block, with its overlap, its stalls and its takes, comes out as the loop. From any state that meets the
invariant, a step that is no reset either leaves what the loop would come to, and the commands ahead, as they were, or has
run the oldest accepted command, and comes to what the loop comes to by executing that command at quiescence. -/
def Obligations.StepMatchesLoop : Prop :=
  ∀ s t : State, s.Inv → step s = .next t → ¬ ByReset s t →
    ((walk t).observed = (walk s).observed ∧ commandsAhead t = commandsAhead s) ∨
    (∃ w u, s.accepted = w :: t.accepted ∧ t.agenda = s.agenda ∧ execute w (walk s) = .next u ∧
      (walk t).observed = (walk u).observed)

/-- R178: a session's records and end state depend on its bits alone, not on how PUSHB commands divide them. The bits an
error leaves in BITQ are not part of the end state as R177 lists it. -/
def Obligations.ChunkingIndependence : Prop :=
  ∀ (s : State) (xs ys : List Instr), s.Inv → s.sess ≠ .run → s.sess ≠ .drain → allFeed xs = true → allFeed ys = true →
    carriedBits xs = carriedBits ys →
    ∃ t u, loopCommands (session xs) s = .next t ∧ loopCommands (session ys) s = .next u ∧ t.exceptBitq = u.exceptBitq

/-- R176: the round trip. The codewords of a sequence of leaves, in any chunking, decode to their symbols, in serial mode
and with a consistent LUT. -/
def Obligations.RoundTrip : Prop :=
  ∀ (s : State) (left right : NodeIdx) (seq : List (List Bool × Symbol)) (feed : List Instr), s.Inv →
    s.sess ≠ .run → s.sess ≠ .drain → WellFormedImage s s.cfg.root → nodeRead s.cfg.root s = some (.internal left right) →
    (s.cfg.lutEn = false ∨ ConsistentLut s s.cfg.root s.cfg.k.toNat) →
    (∀ p ∈ seq, IsCodeword s s.cfg.root p.1 p.2) → allFeed feed = true → carriedBits feed = seq.flatMap Prod.fst →
    ∃ t, loopCommands (session feed) s = .next t ∧
      t.outq = s.outq ++ seq.map (fun p => .sym p.2) ++ [.fin (BitVec.ofNat 30 seq.length)] ∧ t.sess = .done ∧
      t.bitCount = BitVec.ofNat 32 (carriedBits feed).length ∧ t.symCount = BitVec.ofNat 32 seq.length ∧ t.depth = 0

/-- R177: on every session that ends through EOS, of any bits, LUT mode and serial mode emit the same records and end in
the same state. -/
def Obligations.LutModeEqualsSerialMode : Prop :=
  ∀ (s : State) (left right : NodeIdx) (feed : List Instr), s.Inv → s.sess ≠ .run → s.sess ≠ .drain →
    s.cfg.lutEn = true → WellFormedImage s s.cfg.root → nodeRead s.cfg.root s = some (.internal left right) →
    ConsistentLut s s.cfg.root s.cfg.k.toNat → allFeed feed = true →
    ∃ t u, loopCommands (session feed) s = .next t ∧
      loopCommands (session feed) { s with cfg := { s.cfg with lutEn := false } } = .next u ∧
      t.outq = u.outq ∧ t.sess = u.sess ∧ t.bitCount = u.bitCount ∧ t.symCount = u.symCount ∧
      t.errCode = u.errCode ∧ t.errInfo = u.errInfo ∧ t.cur = u.cur ∧ t.depth = u.depth

/-- R179: the one-leaf tree. -/
def Obligations.DegenerateRoundTrip : Prop :=
  ∀ (s : State) (sym : Symbol) (feed : List Instr), s.sess ≠ .run → s.sess ≠ .drain →
    nodeRead s.cfg.root s = some (.leaf sym) → allFeed feed = true →
    ∃ t, loopCommands (session feed) s = .next t ∧ t.sess = .done ∧
      t.outq = s.outq ++ List.replicate (carriedBits feed).length (.sym sym) ++
        [.fin (BitVec.ofNat 30 (carriedBits feed).length)] ∧
      t.bitCount = BitVec.ofNat 32 (carriedBits feed).length

/-- R9: a codeword of a well-formed image is at most 2047 bits. -/
def Obligations.CodewordsAreShort : Prop :=
  ∀ (s : State) (root : NodeIdx) (bits : List Bool) (sym : Symbol), WellFormedImage s root →
    IsCodeword s root bits sym → bits.length ≤ 2047

/-! ### 30_encoding.md: the assembler -/

/-- R111: PUSHS expands to as many PUSHB commands as 16 bits each make necessary, command j carries the bits from 16j on,
and together they carry the bit string. -/
def Obligations.PushsCarriesItsBits : Prop :=
  ∀ bs : List Bool,
    (pushs bs).length = (bs.length + 15) / 16 ∧ allFeed (pushs bs) = true ∧ carriedBits (pushs bs) = bs ∧
    (∀ j, j < (pushs bs).length → (pushs bs)[j]? = some (.pushb
      (BitVec.ofNat 5 (min 16 (bs.length - 16 * j))) (BitVec.ofNat 16 (bitsToNat ((bs.drop (16 * j)).take 16)))))

/-- R112: WLLREP fills the 2^(k-len) entries from LP on with one leaf hit and changes nothing else but LP. -/
def Obligations.WllrepFillsEntries : Prop :=
  ∀ (sym : Symbol) (len : BitVec 4) (k : Nat) (s : State), 1 ≤ len.toNat → len.toNat ≤ k → k ≤ 10 →
    s.sess ≠ .run → s.sess ≠ .drain →
    ∃ t, loopCommands (wllrep sym len k) s = .next t ∧
      t = { s with lut := t.lut, lp := s.lp + BitVec.ofNat 10 (2 ^ (k - len.toNat)) } ∧
      (∀ j, j < 2 ^ (k - len.toNat) → lutRead (s.lp + BitVec.ofNat 10 j) t = some (.lleaf sym len)) ∧
      (∀ i : LutIdx, (∀ j, j < 2 ^ (k - len.toNat) → i ≠ s.lp + BitVec.ofNat 10 j) → lutRead i t = lutRead i s)
end

