-- ==== Sys2Proof/Laws/State.lean ====
section
/-! SUPPORT. What every named update does to every field of the state, one lemma each, so that no later proof unfolds an
update. -/

namespace Sys2Proof.Machine

/-! `emit` -/

@[simp] theorem emit_cfg (r : Record) (s : State) : (emit r s).cfg = s.cfg := rfl
@[simp] theorem emit_np (r : Record) (s : State) : (emit r s).np = s.np := rfl
@[simp] theorem emit_lp (r : Record) (s : State) : (emit r s).lp = s.lp := rfl
@[simp] theorem emit_sess (r : Record) (s : State) : (emit r s).sess = s.sess := rfl
@[simp] theorem emit_eosSeen (r : Record) (s : State) : (emit r s).eosSeen = s.eosSeen := rfl
@[simp] theorem emit_symCount (r : Record) (s : State) : (emit r s).symCount = if r.isSym then s.symCount + 1 else s.symCount := rfl
@[simp] theorem emit_bitCount (r : Record) (s : State) : (emit r s).bitCount = s.bitCount := rfl
@[simp] theorem emit_errCode (r : Record) (s : State) : (emit r s).errCode = s.errCode := rfl
@[simp] theorem emit_errInfo (r : Record) (s : State) : (emit r s).errInfo = s.errInfo := rfl
@[simp] theorem emit_cur (r : Record) (s : State) : (emit r s).cur = s.cur := rfl
@[simp] theorem emit_depth (r : Record) (s : State) : (emit r s).depth = s.depth := rfl
@[simp] theorem emit_bitq (r : Record) (s : State) : (emit r s).bitq = s.bitq := rfl
@[simp] theorem emit_outq (r : Record) (s : State) : (emit r s).outq = s.outq ++ [r] := rfl
@[simp] theorem emit_nodes (r : Record) (s : State) : (emit r s).nodes = s.nodes := rfl
@[simp] theorem emit_lut (r : Record) (s : State) : (emit r s).lut = s.lut := rfl
@[simp] theorem emit_agenda (r : Record) (s : State) : (emit r s).agenda = s.agenda := rfl
@[simp] theorem emit_accepted (r : Record) (s : State) : (emit r s).accepted = s.accepted := rfl
@[simp] theorem emit_taken (r : Record) (s : State) : (emit r s).taken = s.taken := rfl
@[simp] theorem emit_statData (r : Record) (s : State) : (emit r s).statData = s.statData := rfl
@[simp] theorem emit_draws (r : Record) (s : State) : (emit r s).draws = s.draws := rfl
@[simp] theorem emit_lowEdges (r : Record) (s : State) : (emit r s).lowEdges = s.lowEdges := rfl
@[simp] theorem emit_readyIn (r : Record) (s : State) : (emit r s).readyIn = s.readyIn := rfl

/-! `consume` -/

@[simp] theorem consume_cfg (n : Nat) (s : State) : (consume n s).cfg = s.cfg := rfl
@[simp] theorem consume_np (n : Nat) (s : State) : (consume n s).np = s.np := rfl
@[simp] theorem consume_lp (n : Nat) (s : State) : (consume n s).lp = s.lp := rfl
@[simp] theorem consume_sess (n : Nat) (s : State) : (consume n s).sess = s.sess := rfl
@[simp] theorem consume_eosSeen (n : Nat) (s : State) : (consume n s).eosSeen = s.eosSeen := rfl
@[simp] theorem consume_symCount (n : Nat) (s : State) : (consume n s).symCount = s.symCount := rfl
@[simp] theorem consume_bitCount (n : Nat) (s : State) : (consume n s).bitCount = s.bitCount + BitVec.ofNat 32 n := rfl
@[simp] theorem consume_errCode (n : Nat) (s : State) : (consume n s).errCode = s.errCode := rfl
@[simp] theorem consume_errInfo (n : Nat) (s : State) : (consume n s).errInfo = s.errInfo := rfl
@[simp] theorem consume_cur (n : Nat) (s : State) : (consume n s).cur = s.cur := rfl
@[simp] theorem consume_depth (n : Nat) (s : State) : (consume n s).depth = s.depth := rfl
@[simp] theorem consume_bitq (n : Nat) (s : State) : (consume n s).bitq = s.bitq.drop n := rfl
@[simp] theorem consume_outq (n : Nat) (s : State) : (consume n s).outq = s.outq := rfl
@[simp] theorem consume_nodes (n : Nat) (s : State) : (consume n s).nodes = s.nodes := rfl
@[simp] theorem consume_lut (n : Nat) (s : State) : (consume n s).lut = s.lut := rfl
@[simp] theorem consume_agenda (n : Nat) (s : State) : (consume n s).agenda = s.agenda := rfl
@[simp] theorem consume_accepted (n : Nat) (s : State) : (consume n s).accepted = s.accepted := rfl
@[simp] theorem consume_taken (n : Nat) (s : State) : (consume n s).taken = s.taken := rfl
@[simp] theorem consume_statData (n : Nat) (s : State) : (consume n s).statData = s.statData := rfl
@[simp] theorem consume_draws (n : Nat) (s : State) : (consume n s).draws = s.draws := rfl
@[simp] theorem consume_lowEdges (n : Nat) (s : State) : (consume n s).lowEdges = s.lowEdges := rfl
@[simp] theorem consume_readyIn (n : Nat) (s : State) : (consume n s).readyIn = s.readyIn := rfl

/-! `pushBits` -/

@[simp] theorem pushBits_cfg (bs : List Bool) (s : State) : (pushBits bs s).cfg = s.cfg := rfl
@[simp] theorem pushBits_np (bs : List Bool) (s : State) : (pushBits bs s).np = s.np := rfl
@[simp] theorem pushBits_lp (bs : List Bool) (s : State) : (pushBits bs s).lp = s.lp := rfl
@[simp] theorem pushBits_sess (bs : List Bool) (s : State) : (pushBits bs s).sess = s.sess := rfl
@[simp] theorem pushBits_eosSeen (bs : List Bool) (s : State) : (pushBits bs s).eosSeen = s.eosSeen := rfl
@[simp] theorem pushBits_symCount (bs : List Bool) (s : State) : (pushBits bs s).symCount = s.symCount := rfl
@[simp] theorem pushBits_bitCount (bs : List Bool) (s : State) : (pushBits bs s).bitCount = s.bitCount := rfl
@[simp] theorem pushBits_errCode (bs : List Bool) (s : State) : (pushBits bs s).errCode = s.errCode := rfl
@[simp] theorem pushBits_errInfo (bs : List Bool) (s : State) : (pushBits bs s).errInfo = s.errInfo := rfl
@[simp] theorem pushBits_cur (bs : List Bool) (s : State) : (pushBits bs s).cur = s.cur := rfl
@[simp] theorem pushBits_depth (bs : List Bool) (s : State) : (pushBits bs s).depth = s.depth := rfl
@[simp] theorem pushBits_bitq (bs : List Bool) (s : State) : (pushBits bs s).bitq = s.bitq ++ bs := rfl
@[simp] theorem pushBits_outq (bs : List Bool) (s : State) : (pushBits bs s).outq = s.outq := rfl
@[simp] theorem pushBits_nodes (bs : List Bool) (s : State) : (pushBits bs s).nodes = s.nodes := rfl
@[simp] theorem pushBits_lut (bs : List Bool) (s : State) : (pushBits bs s).lut = s.lut := rfl
@[simp] theorem pushBits_agenda (bs : List Bool) (s : State) : (pushBits bs s).agenda = s.agenda := rfl
@[simp] theorem pushBits_accepted (bs : List Bool) (s : State) : (pushBits bs s).accepted = s.accepted := rfl
@[simp] theorem pushBits_taken (bs : List Bool) (s : State) : (pushBits bs s).taken = s.taken := rfl
@[simp] theorem pushBits_statData (bs : List Bool) (s : State) : (pushBits bs s).statData = s.statData := rfl
@[simp] theorem pushBits_draws (bs : List Bool) (s : State) : (pushBits bs s).draws = s.draws := rfl
@[simp] theorem pushBits_lowEdges (bs : List Bool) (s : State) : (pushBits bs s).lowEdges = s.lowEdges := rfl
@[simp] theorem pushBits_readyIn (bs : List Bool) (s : State) : (pushBits bs s).readyIn = s.readyIn := rfl

/-! `writeNodeAtNp` -/

@[simp] theorem writeNodeAtNp_cfg (e : Node) (s : State) : (writeNodeAtNp e s).cfg = s.cfg := rfl
@[simp] theorem writeNodeAtNp_np (e : Node) (s : State) : (writeNodeAtNp e s).np = s.np + 1 := rfl
@[simp] theorem writeNodeAtNp_lp (e : Node) (s : State) : (writeNodeAtNp e s).lp = s.lp := rfl
@[simp] theorem writeNodeAtNp_sess (e : Node) (s : State) : (writeNodeAtNp e s).sess = s.sess := rfl
@[simp] theorem writeNodeAtNp_eosSeen (e : Node) (s : State) : (writeNodeAtNp e s).eosSeen = s.eosSeen := rfl
@[simp] theorem writeNodeAtNp_symCount (e : Node) (s : State) : (writeNodeAtNp e s).symCount = s.symCount := rfl
@[simp] theorem writeNodeAtNp_bitCount (e : Node) (s : State) : (writeNodeAtNp e s).bitCount = s.bitCount := rfl
@[simp] theorem writeNodeAtNp_errCode (e : Node) (s : State) : (writeNodeAtNp e s).errCode = s.errCode := rfl
@[simp] theorem writeNodeAtNp_errInfo (e : Node) (s : State) : (writeNodeAtNp e s).errInfo = s.errInfo := rfl
@[simp] theorem writeNodeAtNp_cur (e : Node) (s : State) : (writeNodeAtNp e s).cur = s.cur := rfl
@[simp] theorem writeNodeAtNp_depth (e : Node) (s : State) : (writeNodeAtNp e s).depth = s.depth := rfl
@[simp] theorem writeNodeAtNp_bitq (e : Node) (s : State) : (writeNodeAtNp e s).bitq = s.bitq := rfl
@[simp] theorem writeNodeAtNp_outq (e : Node) (s : State) : (writeNodeAtNp e s).outq = s.outq := rfl
@[simp] theorem writeNodeAtNp_nodes (e : Node) (s : State) : (writeNodeAtNp e s).nodes = tableWrite s.nodes s.np.toNat e := rfl
@[simp] theorem writeNodeAtNp_lut (e : Node) (s : State) : (writeNodeAtNp e s).lut = s.lut := rfl
@[simp] theorem writeNodeAtNp_agenda (e : Node) (s : State) : (writeNodeAtNp e s).agenda = s.agenda := rfl
@[simp] theorem writeNodeAtNp_accepted (e : Node) (s : State) : (writeNodeAtNp e s).accepted = s.accepted := rfl
@[simp] theorem writeNodeAtNp_taken (e : Node) (s : State) : (writeNodeAtNp e s).taken = s.taken := rfl
@[simp] theorem writeNodeAtNp_statData (e : Node) (s : State) : (writeNodeAtNp e s).statData = s.statData := rfl
@[simp] theorem writeNodeAtNp_draws (e : Node) (s : State) : (writeNodeAtNp e s).draws = s.draws := rfl
@[simp] theorem writeNodeAtNp_lowEdges (e : Node) (s : State) : (writeNodeAtNp e s).lowEdges = s.lowEdges := rfl
@[simp] theorem writeNodeAtNp_readyIn (e : Node) (s : State) : (writeNodeAtNp e s).readyIn = s.readyIn := rfl

/-! `writeLutAtLp` -/

@[simp] theorem writeLutAtLp_cfg (e : LutEntry) (s : State) : (writeLutAtLp e s).cfg = s.cfg := rfl
@[simp] theorem writeLutAtLp_np (e : LutEntry) (s : State) : (writeLutAtLp e s).np = s.np := rfl
@[simp] theorem writeLutAtLp_lp (e : LutEntry) (s : State) : (writeLutAtLp e s).lp = s.lp + 1 := rfl
@[simp] theorem writeLutAtLp_sess (e : LutEntry) (s : State) : (writeLutAtLp e s).sess = s.sess := rfl
@[simp] theorem writeLutAtLp_eosSeen (e : LutEntry) (s : State) : (writeLutAtLp e s).eosSeen = s.eosSeen := rfl
@[simp] theorem writeLutAtLp_symCount (e : LutEntry) (s : State) : (writeLutAtLp e s).symCount = s.symCount := rfl
@[simp] theorem writeLutAtLp_bitCount (e : LutEntry) (s : State) : (writeLutAtLp e s).bitCount = s.bitCount := rfl
@[simp] theorem writeLutAtLp_errCode (e : LutEntry) (s : State) : (writeLutAtLp e s).errCode = s.errCode := rfl
@[simp] theorem writeLutAtLp_errInfo (e : LutEntry) (s : State) : (writeLutAtLp e s).errInfo = s.errInfo := rfl
@[simp] theorem writeLutAtLp_cur (e : LutEntry) (s : State) : (writeLutAtLp e s).cur = s.cur := rfl
@[simp] theorem writeLutAtLp_depth (e : LutEntry) (s : State) : (writeLutAtLp e s).depth = s.depth := rfl
@[simp] theorem writeLutAtLp_bitq (e : LutEntry) (s : State) : (writeLutAtLp e s).bitq = s.bitq := rfl
@[simp] theorem writeLutAtLp_outq (e : LutEntry) (s : State) : (writeLutAtLp e s).outq = s.outq := rfl
@[simp] theorem writeLutAtLp_nodes (e : LutEntry) (s : State) : (writeLutAtLp e s).nodes = s.nodes := rfl
@[simp] theorem writeLutAtLp_lut (e : LutEntry) (s : State) : (writeLutAtLp e s).lut = tableWrite s.lut s.lp.toNat e := rfl
@[simp] theorem writeLutAtLp_agenda (e : LutEntry) (s : State) : (writeLutAtLp e s).agenda = s.agenda := rfl
@[simp] theorem writeLutAtLp_accepted (e : LutEntry) (s : State) : (writeLutAtLp e s).accepted = s.accepted := rfl
@[simp] theorem writeLutAtLp_taken (e : LutEntry) (s : State) : (writeLutAtLp e s).taken = s.taken := rfl
@[simp] theorem writeLutAtLp_statData (e : LutEntry) (s : State) : (writeLutAtLp e s).statData = s.statData := rfl
@[simp] theorem writeLutAtLp_draws (e : LutEntry) (s : State) : (writeLutAtLp e s).draws = s.draws := rfl
@[simp] theorem writeLutAtLp_lowEdges (e : LutEntry) (s : State) : (writeLutAtLp e s).lowEdges = s.lowEdges := rfl
@[simp] theorem writeLutAtLp_readyIn (e : LutEntry) (s : State) : (writeLutAtLp e s).readyIn = s.readyIn := rfl

/-! `openSession` -/

@[simp] theorem openSession_cfg (s : State) : (openSession s).cfg = s.cfg := rfl
@[simp] theorem openSession_np (s : State) : (openSession s).np = s.np := rfl
@[simp] theorem openSession_lp (s : State) : (openSession s).lp = s.lp := rfl
@[simp] theorem openSession_sess (s : State) : (openSession s).sess = .run := rfl
@[simp] theorem openSession_eosSeen (s : State) : (openSession s).eosSeen = false := rfl
@[simp] theorem openSession_symCount (s : State) : (openSession s).symCount = 0 := rfl
@[simp] theorem openSession_bitCount (s : State) : (openSession s).bitCount = 0 := rfl
@[simp] theorem openSession_errCode (s : State) : (openSession s).errCode = 0 := rfl
@[simp] theorem openSession_errInfo (s : State) : (openSession s).errInfo = 0 := rfl
@[simp] theorem openSession_cur (s : State) : (openSession s).cur = s.cfg.root := rfl
@[simp] theorem openSession_depth (s : State) : (openSession s).depth = 0 := rfl
@[simp] theorem openSession_bitq (s : State) : (openSession s).bitq = [] := rfl
@[simp] theorem openSession_outq (s : State) : (openSession s).outq = s.outq := rfl
@[simp] theorem openSession_nodes (s : State) : (openSession s).nodes = s.nodes := rfl
@[simp] theorem openSession_lut (s : State) : (openSession s).lut = s.lut := rfl
@[simp] theorem openSession_agenda (s : State) : (openSession s).agenda = s.agenda := rfl
@[simp] theorem openSession_accepted (s : State) : (openSession s).accepted = s.accepted := rfl
@[simp] theorem openSession_taken (s : State) : (openSession s).taken = s.taken := rfl
@[simp] theorem openSession_statData (s : State) : (openSession s).statData = s.statData := rfl
@[simp] theorem openSession_draws (s : State) : (openSession s).draws = s.draws := rfl
@[simp] theorem openSession_lowEdges (s : State) : (openSession s).lowEdges = s.lowEdges := rfl
@[simp] theorem openSession_readyIn (s : State) : (openSession s).readyIn = s.readyIn := rfl

/-! `closeSession` -/

@[simp] theorem closeSession_cfg (s : State) : (closeSession s).cfg = s.cfg := rfl
@[simp] theorem closeSession_np (s : State) : (closeSession s).np = s.np := rfl
@[simp] theorem closeSession_lp (s : State) : (closeSession s).lp = s.lp := rfl
@[simp] theorem closeSession_sess (s : State) : (closeSession s).sess = .idle := rfl
@[simp] theorem closeSession_eosSeen (s : State) : (closeSession s).eosSeen = false := rfl
@[simp] theorem closeSession_symCount (s : State) : (closeSession s).symCount = s.symCount := rfl
@[simp] theorem closeSession_bitCount (s : State) : (closeSession s).bitCount = s.bitCount := rfl
@[simp] theorem closeSession_errCode (s : State) : (closeSession s).errCode = 0 := rfl
@[simp] theorem closeSession_errInfo (s : State) : (closeSession s).errInfo = 0 := rfl
@[simp] theorem closeSession_cur (s : State) : (closeSession s).cur = s.cfg.root := rfl
@[simp] theorem closeSession_depth (s : State) : (closeSession s).depth = 0 := rfl
@[simp] theorem closeSession_bitq (s : State) : (closeSession s).bitq = [] := rfl
@[simp] theorem closeSession_outq (s : State) : (closeSession s).outq = s.outq := rfl
@[simp] theorem closeSession_nodes (s : State) : (closeSession s).nodes = s.nodes := rfl
@[simp] theorem closeSession_lut (s : State) : (closeSession s).lut = s.lut := rfl
@[simp] theorem closeSession_agenda (s : State) : (closeSession s).agenda = s.agenda := rfl
@[simp] theorem closeSession_accepted (s : State) : (closeSession s).accepted = s.accepted := rfl
@[simp] theorem closeSession_taken (s : State) : (closeSession s).taken = s.taken := rfl
@[simp] theorem closeSession_statData (s : State) : (closeSession s).statData = s.statData := rfl
@[simp] theorem closeSession_draws (s : State) : (closeSession s).draws = s.draws := rfl
@[simp] theorem closeSession_lowEdges (s : State) : (closeSession s).lowEdges = s.lowEdges := rfl
@[simp] theorem closeSession_readyIn (s : State) : (closeSession s).readyIn = s.readyIn := rfl

/-! `markEos` -/

@[simp] theorem markEos_cfg (s : State) : (markEos s).cfg = s.cfg := rfl
@[simp] theorem markEos_np (s : State) : (markEos s).np = s.np := rfl
@[simp] theorem markEos_lp (s : State) : (markEos s).lp = s.lp := rfl
@[simp] theorem markEos_sess (s : State) : (markEos s).sess = .drain := rfl
@[simp] theorem markEos_eosSeen (s : State) : (markEos s).eosSeen = true := rfl
@[simp] theorem markEos_symCount (s : State) : (markEos s).symCount = s.symCount := rfl
@[simp] theorem markEos_bitCount (s : State) : (markEos s).bitCount = s.bitCount := rfl
@[simp] theorem markEos_errCode (s : State) : (markEos s).errCode = s.errCode := rfl
@[simp] theorem markEos_errInfo (s : State) : (markEos s).errInfo = s.errInfo := rfl
@[simp] theorem markEos_cur (s : State) : (markEos s).cur = s.cur := rfl
@[simp] theorem markEos_depth (s : State) : (markEos s).depth = s.depth := rfl
@[simp] theorem markEos_bitq (s : State) : (markEos s).bitq = s.bitq := rfl
@[simp] theorem markEos_outq (s : State) : (markEos s).outq = s.outq := rfl
@[simp] theorem markEos_nodes (s : State) : (markEos s).nodes = s.nodes := rfl
@[simp] theorem markEos_lut (s : State) : (markEos s).lut = s.lut := rfl
@[simp] theorem markEos_agenda (s : State) : (markEos s).agenda = s.agenda := rfl
@[simp] theorem markEos_accepted (s : State) : (markEos s).accepted = s.accepted := rfl
@[simp] theorem markEos_taken (s : State) : (markEos s).taken = s.taken := rfl
@[simp] theorem markEos_statData (s : State) : (markEos s).statData = s.statData := rfl
@[simp] theorem markEos_draws (s : State) : (markEos s).draws = s.draws := rfl
@[simp] theorem markEos_lowEdges (s : State) : (markEos s).lowEdges = s.lowEdges := rfl
@[simp] theorem markEos_readyIn (s : State) : (markEos s).readyIn = s.readyIn := rfl

/-! `emitSymbol` -/

@[simp] theorem emitSymbol_cfg (sym : Symbol) (s : State) : (emitSymbol sym s).cfg = s.cfg := rfl
@[simp] theorem emitSymbol_np (sym : Symbol) (s : State) : (emitSymbol sym s).np = s.np := rfl
@[simp] theorem emitSymbol_lp (sym : Symbol) (s : State) : (emitSymbol sym s).lp = s.lp := rfl
@[simp] theorem emitSymbol_sess (sym : Symbol) (s : State) : (emitSymbol sym s).sess = s.sess := rfl
@[simp] theorem emitSymbol_eosSeen (sym : Symbol) (s : State) : (emitSymbol sym s).eosSeen = s.eosSeen := rfl
@[simp] theorem emitSymbol_symCount (sym : Symbol) (s : State) : (emitSymbol sym s).symCount = s.symCount + 1 := rfl
@[simp] theorem emitSymbol_bitCount (sym : Symbol) (s : State) : (emitSymbol sym s).bitCount = s.bitCount := rfl
@[simp] theorem emitSymbol_errCode (sym : Symbol) (s : State) : (emitSymbol sym s).errCode = s.errCode := rfl
@[simp] theorem emitSymbol_errInfo (sym : Symbol) (s : State) : (emitSymbol sym s).errInfo = s.errInfo := rfl
@[simp] theorem emitSymbol_cur (sym : Symbol) (s : State) : (emitSymbol sym s).cur = s.cfg.root := rfl
@[simp] theorem emitSymbol_depth (sym : Symbol) (s : State) : (emitSymbol sym s).depth = 0 := rfl
@[simp] theorem emitSymbol_bitq (sym : Symbol) (s : State) : (emitSymbol sym s).bitq = s.bitq := rfl
@[simp] theorem emitSymbol_outq (sym : Symbol) (s : State) : (emitSymbol sym s).outq = s.outq ++ [.sym sym] := rfl
@[simp] theorem emitSymbol_nodes (sym : Symbol) (s : State) : (emitSymbol sym s).nodes = s.nodes := rfl
@[simp] theorem emitSymbol_lut (sym : Symbol) (s : State) : (emitSymbol sym s).lut = s.lut := rfl
@[simp] theorem emitSymbol_agenda (sym : Symbol) (s : State) : (emitSymbol sym s).agenda = s.agenda := rfl
@[simp] theorem emitSymbol_accepted (sym : Symbol) (s : State) : (emitSymbol sym s).accepted = s.accepted := rfl
@[simp] theorem emitSymbol_taken (sym : Symbol) (s : State) : (emitSymbol sym s).taken = s.taken := rfl
@[simp] theorem emitSymbol_statData (sym : Symbol) (s : State) : (emitSymbol sym s).statData = s.statData := rfl
@[simp] theorem emitSymbol_draws (sym : Symbol) (s : State) : (emitSymbol sym s).draws = s.draws := rfl
@[simp] theorem emitSymbol_lowEdges (sym : Symbol) (s : State) : (emitSymbol sym s).lowEdges = s.lowEdges := rfl
@[simp] theorem emitSymbol_readyIn (sym : Symbol) (s : State) : (emitSymbol sym s).readyIn = s.readyIn := rfl

/-! `finish` -/

@[simp] theorem finish_cfg (s : State) : (finish s).cfg = s.cfg := rfl
@[simp] theorem finish_np (s : State) : (finish s).np = s.np := rfl
@[simp] theorem finish_lp (s : State) : (finish s).lp = s.lp := rfl
@[simp] theorem finish_sess (s : State) : (finish s).sess = .done := rfl
@[simp] theorem finish_eosSeen (s : State) : (finish s).eosSeen = s.eosSeen := rfl
@[simp] theorem finish_symCount (s : State) : (finish s).symCount = s.symCount := rfl
@[simp] theorem finish_bitCount (s : State) : (finish s).bitCount = s.bitCount := rfl
@[simp] theorem finish_errCode (s : State) : (finish s).errCode = s.errCode := rfl
@[simp] theorem finish_errInfo (s : State) : (finish s).errInfo = s.errInfo := rfl
@[simp] theorem finish_cur (s : State) : (finish s).cur = s.cur := rfl
@[simp] theorem finish_depth (s : State) : (finish s).depth = s.depth := rfl
@[simp] theorem finish_bitq (s : State) : (finish s).bitq = s.bitq := rfl
@[simp] theorem finish_outq (s : State) : (finish s).outq = s.outq ++ [.fin (s.symCount.setWidth 30)] := rfl
@[simp] theorem finish_nodes (s : State) : (finish s).nodes = s.nodes := rfl
@[simp] theorem finish_lut (s : State) : (finish s).lut = s.lut := rfl
@[simp] theorem finish_agenda (s : State) : (finish s).agenda = s.agenda := rfl
@[simp] theorem finish_accepted (s : State) : (finish s).accepted = s.accepted := rfl
@[simp] theorem finish_taken (s : State) : (finish s).taken = s.taken := rfl
@[simp] theorem finish_statData (s : State) : (finish s).statData = s.statData := rfl
@[simp] theorem finish_draws (s : State) : (finish s).draws = s.draws := rfl
@[simp] theorem finish_lowEdges (s : State) : (finish s).lowEdges = s.lowEdges := rfl
@[simp] theorem finish_readyIn (s : State) : (finish s).readyIn = s.readyIn := rfl

/-! `readStatus` -/

@[simp] theorem readStatus_cfg (a : BitVec 4) (s : State) : (readStatus a s).cfg = s.cfg := rfl
@[simp] theorem readStatus_np (a : BitVec 4) (s : State) : (readStatus a s).np = s.np := rfl
@[simp] theorem readStatus_lp (a : BitVec 4) (s : State) : (readStatus a s).lp = s.lp := rfl
@[simp] theorem readStatus_sess (a : BitVec 4) (s : State) : (readStatus a s).sess = s.sess := rfl
@[simp] theorem readStatus_eosSeen (a : BitVec 4) (s : State) : (readStatus a s).eosSeen = s.eosSeen := rfl
@[simp] theorem readStatus_symCount (a : BitVec 4) (s : State) : (readStatus a s).symCount = s.symCount := rfl
@[simp] theorem readStatus_bitCount (a : BitVec 4) (s : State) : (readStatus a s).bitCount = s.bitCount := rfl
@[simp] theorem readStatus_errCode (a : BitVec 4) (s : State) : (readStatus a s).errCode = s.errCode := rfl
@[simp] theorem readStatus_errInfo (a : BitVec 4) (s : State) : (readStatus a s).errInfo = s.errInfo := rfl
@[simp] theorem readStatus_cur (a : BitVec 4) (s : State) : (readStatus a s).cur = s.cur := rfl
@[simp] theorem readStatus_depth (a : BitVec 4) (s : State) : (readStatus a s).depth = s.depth := rfl
@[simp] theorem readStatus_bitq (a : BitVec 4) (s : State) : (readStatus a s).bitq = s.bitq := rfl
@[simp] theorem readStatus_outq (a : BitVec 4) (s : State) : (readStatus a s).outq = s.outq := rfl
@[simp] theorem readStatus_nodes (a : BitVec 4) (s : State) : (readStatus a s).nodes = s.nodes := rfl
@[simp] theorem readStatus_lut (a : BitVec 4) (s : State) : (readStatus a s).lut = s.lut := rfl
@[simp] theorem readStatus_agenda (a : BitVec 4) (s : State) : (readStatus a s).agenda = s.agenda := rfl
@[simp] theorem readStatus_accepted (a : BitVec 4) (s : State) : (readStatus a s).accepted = s.accepted := rfl
@[simp] theorem readStatus_taken (a : BitVec 4) (s : State) : (readStatus a s).taken = s.taken := rfl
@[simp] theorem readStatus_statData (a : BitVec 4) (s : State) : (readStatus a s).statData = statusPort s a := rfl
@[simp] theorem readStatus_draws (a : BitVec 4) (s : State) : (readStatus a s).draws = s.draws := rfl
@[simp] theorem readStatus_lowEdges (a : BitVec 4) (s : State) : (readStatus a s).lowEdges = s.lowEdges := rfl
@[simp] theorem readStatus_readyIn (a : BitVec 4) (s : State) : (readStatus a s).readyIn = s.readyIn := rfl

/-! `raise`: outside ERROR it writes four fields, in ERROR none (R210, R212). -/

@[simp] theorem raise_cfg (e : ErrName) (info : Word) (s : State) :
    (raise e info s).cfg = s.cfg := by
  unfold raise; split <;> rfl
@[simp] theorem raise_np (e : ErrName) (info : Word) (s : State) :
    (raise e info s).np = s.np := by
  unfold raise; split <;> rfl
@[simp] theorem raise_lp (e : ErrName) (info : Word) (s : State) :
    (raise e info s).lp = s.lp := by
  unfold raise; split <;> rfl
@[simp] theorem raise_sess (e : ErrName) (info : Word) (s : State) : (raise e info s).sess = .error := by
  unfold raise; split <;> simp_all
@[simp] theorem raise_eosSeen (e : ErrName) (info : Word) (s : State) :
    (raise e info s).eosSeen = s.eosSeen := by
  unfold raise; split <;> rfl
@[simp] theorem raise_symCount (e : ErrName) (info : Word) (s : State) :
    (raise e info s).symCount = s.symCount := by
  unfold raise; split <;> rfl
@[simp] theorem raise_bitCount (e : ErrName) (info : Word) (s : State) :
    (raise e info s).bitCount = s.bitCount := by
  unfold raise; split <;> rfl
@[simp] theorem raise_errCode (e : ErrName) (info : Word) (s : State) :
    (raise e info s).errCode = if s.sess = .error then s.errCode else e.code := by
  unfold raise; split <;> rfl
@[simp] theorem raise_errInfo (e : ErrName) (info : Word) (s : State) :
    (raise e info s).errInfo = if s.sess = .error then s.errInfo else info := by
  unfold raise; split <;> rfl
@[simp] theorem raise_cur (e : ErrName) (info : Word) (s : State) :
    (raise e info s).cur = s.cur := by
  unfold raise; split <;> rfl
@[simp] theorem raise_depth (e : ErrName) (info : Word) (s : State) :
    (raise e info s).depth = s.depth := by
  unfold raise; split <;> rfl
@[simp] theorem raise_bitq (e : ErrName) (info : Word) (s : State) :
    (raise e info s).bitq = s.bitq := by
  unfold raise; split <;> rfl
@[simp] theorem raise_outq (e : ErrName) (info : Word) (s : State) :
    (raise e info s).outq = if s.sess = .error then s.outq else s.outq ++ [.err e.code] := by
  unfold raise; split <;> rfl
@[simp] theorem raise_nodes (e : ErrName) (info : Word) (s : State) :
    (raise e info s).nodes = s.nodes := by
  unfold raise; split <;> rfl
@[simp] theorem raise_lut (e : ErrName) (info : Word) (s : State) :
    (raise e info s).lut = s.lut := by
  unfold raise; split <;> rfl
@[simp] theorem raise_agenda (e : ErrName) (info : Word) (s : State) :
    (raise e info s).agenda = s.agenda := by
  unfold raise; split <;> rfl
@[simp] theorem raise_accepted (e : ErrName) (info : Word) (s : State) :
    (raise e info s).accepted = s.accepted := by
  unfold raise; split <;> rfl
@[simp] theorem raise_taken (e : ErrName) (info : Word) (s : State) :
    (raise e info s).taken = s.taken := by
  unfold raise; split <;> rfl
@[simp] theorem raise_statData (e : ErrName) (info : Word) (s : State) :
    (raise e info s).statData = s.statData := by
  unfold raise; split <;> rfl
@[simp] theorem raise_draws (e : ErrName) (info : Word) (s : State) :
    (raise e info s).draws = s.draws := by
  unfold raise; split <;> rfl
@[simp] theorem raise_lowEdges (e : ErrName) (info : Word) (s : State) :
    (raise e info s).lowEdges = s.lowEdges := by
  unfold raise; split <;> rfl
@[simp] theorem raise_readyIn (e : ErrName) (info : Word) (s : State) :
    (raise e info s).readyIn = s.readyIn := by
  unfold raise; split <;> rfl

/-- Error entry, whole: in ERROR nothing; otherwise the code, the information, ERROR and the ERR record (R210). -/
theorem raise_eq (e : ErrName) (info : Word) (s : State) :
    raise e info s = if s.sess = .error then s else
      { s with errCode := e.code, errInfo := info, sess := .error, outq := s.outq ++ [.err e.code] } := rfl

/-- A take moves the head record of OUTQ to the host (R250). -/
theorem takeRecord_stream (s : State) : (takeRecord s).taken ++ (takeRecord s).outq = s.taken ++ s.outq := by
  unfold takeRecord; split <;> simp_all

/-- A queue level that 32 bits hold reads as it is (R44). -/
theorem levelWord_toNat {n : Nat} (h : n < 2 ^ 32) : (levelWord n).toNat = n := by
  simp only [levelWord, show n < 4294967296 from h, if_true, BitVec.toNat_ofNat]; omega

/-! `acceptWord` -/

@[simp] theorem acceptWord_toBlock (w : Word) (rest : List HostEvent) (s : State) :
    (acceptWord w rest s).toBlock = s.toBlock := rfl
@[simp] theorem acceptWord_agenda (w : Word) (rest : List HostEvent) (s : State) :
    (acceptWord w rest s).agenda = rest := rfl
@[simp] theorem acceptWord_accepted (w : Word) (rest : List HostEvent) (s : State) :
    (acceptWord w rest s).accepted = s.accepted ++ [w] := rfl
@[simp] theorem acceptWord_taken (w : Word) (rest : List HostEvent) (s : State) :
    (acceptWord w rest s).taken = s.taken := rfl
@[simp] theorem acceptWord_statData (w : Word) (rest : List HostEvent) (s : State) :
    (acceptWord w rest s).statData = s.statData := rfl
@[simp] theorem acceptWord_draws (w : Word) (rest : List HostEvent) (s : State) :
    (acceptWord w rest s).draws = s.draws := rfl
@[simp] theorem acceptWord_lowEdges (w : Word) (rest : List HostEvent) (s : State) :
    (acceptWord w rest s).lowEdges = s.lowEdges := rfl
@[simp] theorem acceptWord_readyIn (w : Word) (rest : List HostEvent) (s : State) :
    (acceptWord w rest s).readyIn = s.readyIn := rfl

/-! `resetBlock` -/

@[simp] theorem resetBlock_toBlock (s : State) : (resetBlock s).toBlock = Block.reset := rfl
@[simp] theorem resetBlock_agenda (s : State) : (resetBlock s).agenda = s.agenda := rfl
@[simp] theorem resetBlock_accepted (s : State) : (resetBlock s).accepted = [] := rfl
@[simp] theorem resetBlock_taken (s : State) : (resetBlock s).taken = s.taken := rfl
@[simp] theorem resetBlock_statData (s : State) : (resetBlock s).statData = s.statData := rfl
@[simp] theorem resetBlock_draws (s : State) : (resetBlock s).draws = s.draws := rfl
@[simp] theorem resetBlock_lowEdges (s : State) : (resetBlock s).lowEdges = s.lowEdges := rfl
@[simp] theorem resetBlock_readyIn (s : State) : (resetBlock s).readyIn = s.readyIn := rfl

/-! `lowerRst` -/

@[simp] theorem lowerRst_toBlock (n : Nat) (es : List HostEvent) (s : State) : (lowerRst n es s).toBlock = s.toBlock := rfl
@[simp] theorem lowerRst_agenda (n : Nat) (es : List HostEvent) (s : State) : (lowerRst n es s).agenda = es := rfl
@[simp] theorem lowerRst_accepted (n : Nat) (es : List HostEvent) (s : State) : (lowerRst n es s).accepted = s.accepted := rfl
@[simp] theorem lowerRst_taken (n : Nat) (es : List HostEvent) (s : State) : (lowerRst n es s).taken = s.taken := rfl
@[simp] theorem lowerRst_statData (n : Nat) (es : List HostEvent) (s : State) : (lowerRst n es s).statData = s.statData := rfl
@[simp] theorem lowerRst_draws (n : Nat) (es : List HostEvent) (s : State) : (lowerRst n es s).draws = s.draws := rfl
@[simp] theorem lowerRst_lowEdges (n : Nat) (es : List HostEvent) (s : State) : (lowerRst n es s).lowEdges = n + 1 := rfl
@[simp] theorem lowerRst_readyIn (n : Nat) (es : List HostEvent) (s : State) : (lowerRst n es s).readyIn = s.readyIn := rfl

/-! `resetEdge` -/

@[simp] theorem resetEdge_toBlock (s : State) : (resetEdge s).toBlock = Block.reset := rfl
@[simp] theorem resetEdge_agenda (s : State) : (resetEdge s).agenda = s.agenda := rfl
@[simp] theorem resetEdge_accepted (s : State) : (resetEdge s).accepted = [] := rfl
@[simp] theorem resetEdge_taken (s : State) : (resetEdge s).taken = s.taken := rfl
@[simp] theorem resetEdge_statData (s : State) : (resetEdge s).statData = s.statData := rfl
@[simp] theorem resetEdge_draws (s : State) : (resetEdge s).draws = s.draws + 1 := rfl
@[simp] theorem resetEdge_lowEdges (s : State) : (resetEdge s).lowEdges = s.lowEdges - 1 := rfl
@[simp] theorem resetEdge_readyIn (s : State) :
    (resetEdge s).readyIn = Config.resetReadyCycles - Config.readyPassed s.draws := rfl

/-! While `rst_n` is low (R240) -/

/-- `rst_n` is low after it has gone low. -/
@[simp] theorem rstN_lowerRst (n : Nat) (es : List HostEvent) (s : State) : rstN (lowerRst n es s) = false := rfl

/-- `cmd_ready` is 0 while `rst_n` is low. -/
theorem cmdReady_of_low {s : State} (low : rstN s = false) (w : Word) : cmdReady w s = false := by simp [cmdReady, low]

/-- `out_valid` is 0 while `rst_n` is low. -/
theorem outValid_of_low {s : State} (low : rstN s = false) : outValid s = false := by simp [outValid, low]

end Sys2Proof.Machine
end

