-- ==== Sys2Proof/Laws/Tables.lean ====
section
/-! SUPPORT. The tables: a read after a write, and the canonical form, which every operation keeps. -/

namespace Sys2Proof.Machine

variable {α : Type}

/-- Reading after a write: the entry written at that index, and every other entry as before (R62, R66). -/
theorem tableRead_tableWrite (t : Table α) (i k : Nat) (e : α) :
    tableRead (tableWrite t i e) k = if k = i then some e else tableRead t k := by
  induction t with
  | nil => simp [tableWrite, tableRead]
  | cons hd rest ih =>
    obtain ⟨j, f⟩ := hd
    simp only [tableWrite]
    split
    · simp [tableRead]
    · split
      · simp only [tableRead]; split <;> simp_all
      · rename_i hne
        simp only [tableRead, ih]
        by_cases hk : k = j
        · subst hk; simp [Ne.symm hne]
        · simp [hk]

/-- A table in canonical form above `lo` stays so above any smaller bound. -/
theorem tableWfFrom_mono {size lo lo' : Nat} {t : Table α} (h : tableWfFrom size lo t = true) (hle : lo' ≤ lo) :
    tableWfFrom size lo' t = true := by
  cases t with
  | nil => rfl
  | cons hd rest => obtain ⟨j, f⟩ := hd; simp only [tableWfFrom, Bool.and_eq_true, decide_eq_true_eq] at *; exact ⟨⟨by omega, h.1.2⟩, h.2⟩

/-- Writing at an index in range keeps the canonical form. -/
theorem tableWfFrom_tableWrite {size lo : Nat} {t : Table α} {i : Nat} (e : α) (h : tableWfFrom size lo t = true)
    (hlo : lo ≤ i) (hi : i < size) : tableWfFrom size lo (tableWrite t i e) = true := by
  induction t generalizing lo with
  | nil => simp [tableWrite, tableWfFrom, hlo, hi]
  | cons hd rest ih =>
    obtain ⟨j, f⟩ := hd
    simp only [tableWfFrom, Bool.and_eq_true, decide_eq_true_eq] at h
    obtain ⟨⟨hj, hjs⟩, hrest⟩ := h
    simp only [tableWrite]
    split
    · simp only [tableWfFrom, Bool.and_eq_true, decide_eq_true_eq]
      exact ⟨⟨hlo, hi⟩, ⟨by omega, hjs⟩, hrest⟩
    · split
      · subst i; simp only [tableWfFrom, Bool.and_eq_true, decide_eq_true_eq]; exact ⟨⟨hlo, hi⟩, hrest⟩
      · simp only [tableWfFrom, Bool.and_eq_true, decide_eq_true_eq]
        exact ⟨⟨hj, hjs⟩, ih hrest (by omega)⟩

/-- A node write keeps the canonical form of the memories. -/
theorem writeNodeAtNp_keeps_wf (e : Node) {s : State} (h : Memory.wf s = true) : Memory.wf (writeNodeAtNp e s) = true := by
  simp only [Memory.wf, Bool.and_eq_true] at *
  exact ⟨tableWfFrom_tableWrite e h.1 (Nat.zero_le _) s.np.isLt, h.2⟩

/-- A LUT write keeps the canonical form of the memories. -/
theorem writeLutAtLp_keeps_wf (e : LutEntry) {s : State} (h : Memory.wf s = true) : Memory.wf (writeLutAtLp e s) = true := by
  simp only [Memory.wf, Bool.and_eq_true] at *
  exact ⟨h.1, tableWfFrom_tableWrite e h.2 (Nat.zero_le _) s.lp.isLt⟩

/-- The canonical form depends on the tables alone. -/
theorem wf_of_tables_eq {s t : State} (hn : t.nodes = s.nodes) (hl : t.lut = s.lut) (h : Memory.wf s = true) :
    Memory.wf t = true := by
  simpa [Memory.wf, hn, hl] using h

/-- After reset both tables are empty, and in canonical form (R242). -/
theorem reset_wf : Memory.wf State.reset = true := rfl

end Sys2Proof.Machine
end

