-- ==== Sys2Proof/Laws/Walker.lean ====
section
/-! SUPPORT. What one walker step can do, said once: the four kinds of effect of a step, from which the walker's frame,
its progress and its invariants follow. -/

namespace Sys2Proof.Machine

/-- The effects a walker step can have (R163 to R173). -/
inductive WalkerEffect (s : State) : State → Prop where
  /-- Error entry with BIT_COUNT; nothing is consumed (R213). -/
  | error (e : ErrName) (walkers : e.code.toNat < 8) : WalkerEffect s (walkerError e s)
  /-- The end of the session (R171). -/
  | finish (empty : s.bitq = []) (eos : s.eosSeen = true) (boundary : s.depth = 0) : WalkerEffect s (finish s)
  /-- A codeword completed by consuming `n` bits (R167, R168, R173). -/
  | symbol (n : Nat) (sym : Symbol) (pos : 0 < n) (enough : n ≤ s.bitq.length) :
      WalkerEffect s (emitSymbol sym (consume n s))
  /-- A move of `n` bits to an internal node (R169, R173). -/
  | descend (n : Nat) (i : NodeIdx) (d : BitVec 12) (pos : 0 < n) (enough : n ≤ s.bitq.length) (deeper : d ≠ 0)
      (bound : d.toNat ≤ 4094) (isInternal : ∃ left right, nodeRead i s = some (.internal left right)) :
      WalkerEffect s { consume n s with cur := i, depth := d }

/-- What a serial step does (R168, R169). -/
theorem serialStep_effect {left right : NodeIdx} {s : State} (hb : s.bitq ≠ []) (hd : s.depth.toNat ≤ 4094) :
    WalkerEffect s (serialStep left right s) := by
  have hlen : 1 ≤ s.bitq.length := List.length_pos_iff.mpr hb
  unfold serialStep
  simp only
  split
  · exact .error _ (by decide)
  · exact .symbol 1 _ Nat.one_pos hlen
  · rename_i l r hn
    unfold descendInternal
    split
    · exact .error _ (by decide)
    · rename_i hmax
      have hsum : (s.depth + 1).toNat = s.depth.toNat + 1 := by
        rw [BitVec.toNat_add]; simp; omega
      have hdeep : s.depth + 1 ≠ 0 := fun h => by rw [h] at hsum; simp at hsum
      have hbound : (s.depth + 1).toNat ≤ 4094 := by
        have : s.depth.toNat + 1 ≠ 4095 := hmax
        omega
      exact .descend 1 _ _ Nat.one_pos hlen hdeep hbound ⟨l, r, hn⟩

/-- What a LUT step does (R173). -/
theorem lutStep_effect {s : State} (hk : 1 ≤ s.cfg.k.toNat) (hlen : s.cfg.k.toNat ≤ s.bitq.length) :
    WalkerEffect s (lutStep s) := by
  unfold lutStep
  simp only
  split
  · exact .error _ (by decide)
  · exact .error _ (by decide)
  · split
    · exact .error _ (by decide)
    · rename_i sym len _ hl
      exact .symbol _ _ (by omega) (by omega)
  · split
    · exact .error _ (by decide)
    · exact .symbol _ _ hk hlen
    · rename_i l r hn
      have hw : (s.cfg.k.setWidth 12).toNat = s.cfg.k.toNat := by
        rw [BitVec.toNat_setWidth]; have := s.cfg.k.isLt; omega
      have hdeep : s.cfg.k.setWidth 12 ≠ 0 := fun h => by simp [h] at hw; omega
      have hbound : (s.cfg.k.setWidth 12).toNat ≤ 4094 := by have := s.cfg.k.isLt; omega
      exact .descend _ _ _ hk hlen hdeep hbound ⟨l, r, hn⟩

/-- LUT_EN = 1 with a legal K means K is at least 1 (R22). -/
theorem cfgLegal_pos {k : BitVec 4} {lutEn : Bool} (h : cfgLegal k lutEn = true) (he : lutEn = true) : 1 ≤ k.toNat := by
  simp only [cfgLegal, he, Bool.not_true, Bool.false_or, Bool.and_eq_true, decide_eq_true_eq] at h; exact h.1

/-- Everything a walker step can do, when it answers a next state (R163). -/
theorem walkerStep_effect {s t : State} (hc : cfgLegal s.cfg.k s.cfg.lutEn = true) (hd : s.depth.toNat ≤ 4094)
    (h : walkerStep s = some (.next t)) : active s ∧ WalkerEffect s t := by
  unfold walkerStep at h
  split at h
  case isFalse => simp at h
  case isTrue hact =>
    refine ⟨hact, ?_⟩
    split at h
    case isTrue hempty =>
      unfold emptyStep at h
      split at h
      · split at h <;> simp only [Option.some.injEq, Host.Outcome.next.injEq] at h <;> subst h
        · exact .finish hempty ‹_› ‹_›
        · exact .error _ (by decide)
      · simp at h
    case isFalse hb =>
      split at h
      · unfold boundaryStep at h
        split at h
        · simp only [Option.some.injEq, Host.Outcome.next.injEq] at h; subst h; exact .error _ (by decide)
        · simp only [Option.some.injEq, Host.Outcome.next.injEq] at h; subst h
          exact .symbol 1 _ Nat.one_pos (List.length_pos_iff.mpr hb)
        · split at h
          · rename_i he
            split at h
            · simp only [Option.some.injEq, Host.Outcome.next.injEq] at h; subst h
              exact lutStep_effect (cfgLegal_pos hc he) ‹_›
            · split at h
              · simp only [Option.some.injEq, Host.Outcome.next.injEq] at h; subst h; exact serialStep_effect hb hd
              · simp at h
          · simp only [Option.some.injEq, Host.Outcome.next.injEq] at h; subst h; exact serialStep_effect hb hd
      · unfold insideStep at h
        split at h
        · simp only [Option.some.injEq, Host.Outcome.next.injEq] at h; subst h; exact serialStep_effect hb hd
        · simp at h
        · simp at h

/-! ### The block's share of a step depends on the block alone (R20) -/

/-- The block of a next state. -/
def blockOf : Result → Option Block
  | .next t => some t.toBlock
  | .fault _ | .refused _ => none

theorem raise_block (e : ErrName) (info : Word) (b : Block) (o o' : Outside) :
    (raise e info ⟨b, o⟩).toBlock = (raise e info ⟨b, o'⟩).toBlock := by
  simp only [raise]; split <;> rfl

theorem descendInternal_block (nxt : NodeIdx) (b : Block) (o o' : Outside) :
    (descendInternal nxt ⟨b, o⟩).toBlock = (descendInternal nxt ⟨b, o'⟩).toBlock := by
  simp only [descendInternal, walkerError]; split
  · exact raise_block ..
  · rfl

theorem serialStep_block (left right : NodeIdx) (b : Block) (o o' : Outside) :
    (serialStep left right ⟨b, o⟩).toBlock = (serialStep left right ⟨b, o'⟩).toBlock := by
  simp only [serialStep, nodeRead, peek, walkerError]
  by_cases h : b.bitq.take 1 = [true] <;> simp only [h, if_true, if_false] <;> split <;>
    first | rfl | exact raise_block .. | exact descendInternal_block ..

theorem lutStep_block (b : Block) (o o' : Outside) : (lutStep ⟨b, o⟩).toBlock = (lutStep ⟨b, o'⟩).toBlock := by
  simp only [lutStep, nodeRead, lutRead, peek, walkerError]
  split
  · exact raise_block ..
  · exact raise_block ..
  · split
    · exact raise_block ..
    · rfl
  · split
    · exact raise_block ..
    · rfl
    · rfl

/-- What a walker step does to the block depends on the block alone (R163, R20). -/
theorem walkerStep_block {s t : State} (h : s.toBlock = t.toBlock) :
    (walkerStep s).map blockOf = (walkerStep t).map blockOf := by
  obtain ⟨b, o⟩ := s
  obtain ⟨b', o'⟩ := t
  obtain rfl : b = b' := h
  have next {f : State → State} (hf : (f ⟨b, o⟩).toBlock = (f ⟨b, o'⟩).toBlock) :
      (some (.next (f ⟨b, o⟩)) : Option Result).map blockOf = (some (.next (f ⟨b, o'⟩))).map blockOf := by
    simp [blockOf, hf]
  simp only [walkerStep, emptyStep, boundaryStep, insideStep, nodeRead]
  split
  · split
    · split
      · split
        · rfl
        · exact next (raise_block ..)
      · rfl
    · split
      · split
        · exact next (raise_block ..)
        · rfl
        · split
          · split
            · exact next (lutStep_block ..)
            · split
              · exact next (serialStep_block ..)
              · rfl
          · exact next (serialStep_block ..)
      · split
        · exact next (serialStep_block ..)
        · rfl
        · rfl
  · rfl

end Sys2Proof.Machine
end

