-- ==== Sys2Proof/Laws/Commands.lean ====
section
/-! SUPPORT. What a command can do, said once: the four outcomes of the state check, and that every command answers a
next state. -/

namespace Sys2Proof.Machine

/-- A command behind its state check answers a next state, in one of four ways (R140). -/
theorem checked_eq (c : CommandClass) (i : Instr) (body : State → State) (s : State) :
    (checkState c s.sess = .passes ∧ checked c i body s = .next (body s)) ∨
    (checkState c s.sess = .wrongState ∧ checked c i body s = .next (raise .wrongState (encode i) s)) ∨
    (checkState c s.sess = .discarded ∧ checked c i body s = .next s) ∨
    (checkState c s.sess = .held ∧ checked c i body s = .next { s with accepted := encode i :: s.accepted }) := by
  unfold checked; cases checkState c s.sess <;> simp

/-- Every command answers a next state, in every state. -/
theorem exec_next (i : Instr) (s : State) : ∃ t, exec i s = .next t := by
  have h (c : CommandClass) (j : Instr) (body : State → State) : ∃ t, checked c j body s = .next t := by
    unfold checked; cases checkState c s.sess <;> exact ⟨_, rfl⟩
  cases i <;> simp only [exec, execNop, execSetnp, execWni, execWnl, execSetlp, execWll, execWln, execWlx, execCfg,
    execStart, execPushb, execEos, execAbort]
  case pushb cnt data => split <;> first | exact h _ _ _ | exact ⟨_, rfl⟩
  case nop => exact ⟨_, rfl⟩
  all_goals exact h _ _ _

/-- Every command word answers a next state, in every state (R97). -/
theorem execute_next (w : Word) (s : State) : ∃ t, execute w s = .next t := by
  unfold execute; split
  · exact exec_next _ _
  · exact ⟨_, rfl⟩

/-- Where the state check passes, the body runs (R140). -/
theorem checked_passes {c : CommandClass} {i : Instr} {body : State → State} {s : State}
    (h : checkState c s.sess = .passes) : checked c i body s = .next (body s) := by simp [checked, h]

/-- A command of the table class passes in IDLE, DONE and ERROR (R140). -/
theorem outside_passes {s : State} (h : s.sess ≠ .run ∧ s.sess ≠ .drain) :
    checkState .outsideSession s.sess = .passes := by
  obtain ⟨h1, h2⟩ := h; cases hs : s.sess <;> simp_all [checkState]

/-- What a command does to the block depends on the block alone (R20). -/
theorem exec_block (i : Instr) {s t : State} (h : s.toBlock = t.toBlock) : blockOf (exec i s) = blockOf (exec i t) := by
  obtain ⟨b, o⟩ := s
  obtain ⟨b', o'⟩ := t
  obtain rfl : b = b' := h
  have check {c : CommandClass} {j : Instr} {body : State → State}
      (hb : (body ⟨b, o⟩).toBlock = (body ⟨b, o'⟩).toBlock) :
      blockOf (checked c j body ⟨b, o⟩) = blockOf (checked c j body ⟨b, o'⟩) := by
    simp only [checked]
    cases checkState c b.sess <;> simp only [blockOf, Option.some.injEq]
    · exact hb
    · exact raise_block ..
  cases i <;> simp only [exec, execNop, execSetnp, execWni, execWnl, execSetlp, execWll, execWln, execWlx, execCfg,
    execStart, execPushb, execEos, execAbort]
  case nop => rfl
  case cfg => exact check (by simp only; split; rfl; exact raise_block ..)
  case pushb => split; exact check rfl; exact congrArg some (raise_block ..)
  all_goals exact check rfl

end Sys2Proof.Machine
end

