-- ==== Sys2Proof/Laws/PerInstr.lean ====
section
/-! SUPPORT. A statement about every command as syntax, one lemma a constructor: the word of a command carries its row's
opcode byte and matches its row (R90, R92), so that the row is the one the decoder picks. -/

namespace Sys2Proof.Laws.SelectsItsRow

/-- The row of a command (R92). -/
def row : Instr → Opcode
  | .nop => .nop
  | .setnp _ => .setnp
  | .wni _ _ => .wni
  | .wnl _ => .wnl
  | .setlp _ => .setlp
  | .wll _ _ => .wll
  | .wln _ => .wln
  | .wlx => .wlx
  | .cfg _ _ _ _ => .cfg
  | .start => .start
  | .pushb _ _ => .pushb
  | .eos => .eos
  | .abort => .abort

/-- The word of a command has its row's opcode byte and no 1 in a reserved bit (R90 to R93). -/
def Statement (i : Instr) : Prop :=
  Opcode.ofByte (field (encode i) 24 8) = some (row i) ∧ (row i).selects (encode i) = true

/-- Two words with the same bits are equal. -/
theorem selects_of_bits {op : Opcode} {w : Word}
    (h : ∀ i, i < 32 → (w &&& op.mask).getLsbD i = op.matchWord.getLsbD i) : op.selects w = true := by
  simp only [Opcode.selects, beq_iff_eq]
  exact BitVec.eq_of_getLsbD_eq h

/-- A word whose top byte is `b` has the row of `b`. -/
theorem ofByte_of_bits {w : Word} {b : BitVec 8} (h : ∀ i, i < 8 → w.getLsbD (24 + i) = b.getLsbD i) :
    Opcode.ofByte (field w 24 8) = Opcode.ofByte b := by
  have : field w 24 8 = b := by
    apply BitVec.eq_of_getLsbD_eq
    intro i hi
    rw [field, BitVec.getLsbD_extractLsb', h i hi]; simp [hi]
  rw [this]

theorem nop : Statement .nop := ⟨rfl, rfl⟩

theorem setnp (a : NodeIdx) : Statement (.setnp a) := by
  refine ⟨(ofByte_of_bits (b := 0x01#8) fun i hi => ?_).trans rfl, selects_of_bits fun i hi => ?_⟩
  · rw [encode]; repeat rw [BitVec.getLsbD_append]
    interval_cases i <;> simp
  · rw [BitVec.getLsbD_and, encode]; repeat rw [BitVec.getLsbD_append]
    interval_cases i <;> simp [row, Opcode.mask, Opcode.matchWord]

theorem wni (l r : NodeIdx) : Statement (.wni l r) := by
  refine ⟨(ofByte_of_bits (b := 0x02#8) fun i hi => ?_).trans rfl, selects_of_bits fun i hi => ?_⟩
  · rw [encode]; repeat rw [BitVec.getLsbD_append]
    interval_cases i <;> simp
  · rw [BitVec.getLsbD_and, encode]; repeat rw [BitVec.getLsbD_append]
    interval_cases i <;> simp [row, Opcode.mask, Opcode.matchWord]

theorem wnl (s : Symbol) : Statement (.wnl s) := by
  refine ⟨(ofByte_of_bits (b := 0x03#8) fun i hi => ?_).trans rfl, selects_of_bits fun i hi => ?_⟩
  · rw [encode]; repeat rw [BitVec.getLsbD_append]
    interval_cases i <;> simp
  · rw [BitVec.getLsbD_and, encode]; repeat rw [BitVec.getLsbD_append]
    interval_cases i <;> simp [row, Opcode.mask, Opcode.matchWord]

theorem setlp (a : LutIdx) : Statement (.setlp a) := by
  refine ⟨(ofByte_of_bits (b := 0x04#8) fun i hi => ?_).trans rfl, selects_of_bits fun i hi => ?_⟩
  · rw [encode]; repeat rw [BitVec.getLsbD_append]
    interval_cases i <;> simp
  · rw [BitVec.getLsbD_and, encode]; repeat rw [BitVec.getLsbD_append]
    interval_cases i <;> simp [row, Opcode.mask, Opcode.matchWord]

theorem wll (s : Symbol) (n : BitVec 4) : Statement (.wll s n) := by
  refine ⟨(ofByte_of_bits (b := 0x05#8) fun i hi => ?_).trans rfl, selects_of_bits fun i hi => ?_⟩
  · rw [encode]; repeat rw [BitVec.getLsbD_append]
    interval_cases i <;> simp
  · rw [BitVec.getLsbD_and, encode]; repeat rw [BitVec.getLsbD_append]
    interval_cases i <;> simp [row, Opcode.mask, Opcode.matchWord]

theorem wln (n : NodeIdx) : Statement (.wln n) := by
  refine ⟨(ofByte_of_bits (b := 0x06#8) fun i hi => ?_).trans rfl, selects_of_bits fun i hi => ?_⟩
  · rw [encode]; repeat rw [BitVec.getLsbD_append]
    interval_cases i <;> simp
  · rw [BitVec.getLsbD_and, encode]; repeat rw [BitVec.getLsbD_append]
    interval_cases i <;> simp [row, Opcode.mask, Opcode.matchWord]

theorem wlx : Statement .wlx := ⟨rfl, rfl⟩

theorem cfg (r : NodeIdx) (k : BitVec 4) (l q : Bool) : Statement (.cfg r k l q) := by
  refine ⟨(ofByte_of_bits (b := 0x08#8) fun i hi => ?_).trans rfl, selects_of_bits fun i hi => ?_⟩
  · rw [encode]; repeat rw [BitVec.getLsbD_append]
    interval_cases i <;> simp
  · rw [BitVec.getLsbD_and, encode]; repeat rw [BitVec.getLsbD_append]
    interval_cases i <;> simp [row, Opcode.mask, Opcode.matchWord]

theorem start : Statement .start := ⟨rfl, rfl⟩

theorem pushb (c : BitVec 5) (d : BitVec 16) : Statement (.pushb c d) := by
  refine ⟨(ofByte_of_bits (b := 0x0A#8) fun i hi => ?_).trans rfl, selects_of_bits fun i hi => ?_⟩
  · rw [encode]; repeat rw [BitVec.getLsbD_append]
    interval_cases i <;> simp
  · rw [BitVec.getLsbD_and, encode]; repeat rw [BitVec.getLsbD_append]
    interval_cases i <;> simp [row, Opcode.mask, Opcode.matchWord]

theorem eos : Statement .eos := ⟨rfl, rfl⟩

theorem abort : Statement .abort := ⟨rfl, rfl⟩

end Sys2Proof.Laws.SelectsItsRow
end

