-- ==== Sys2Proof/Laws/Step.lean ====
section
/-! SUPPORT. What one step of the block can be, said once, and the run to quiescence. -/

namespace Sys2Proof.Machine

/-- The moves of the block. -/
inductive Move (s : State) : State → Prop where
  /-- Nothing can move: idle or stuck (R228, R253). -/
  | wait (reset : resetMove s = none) (host : hostMove s = none) (port : portMove s = none)
      (walker : walkerMove s = none) : Move s s
  /-- A walker step (R163). -/
  | walker (t : State) (h : walkerStep s = some (.next t)) (room : fits s t = true) : Move s t
  /-- The oldest accepted command takes effect (R160, R249, R254). -/
  | command (w : Word) (rest : List Word) (t : State) (head : s.accepted = w :: rest)
      (when : quiescent { s with accepted := rest } = true ∨ mayOverlap w { s with accepted := rest } = true)
      (h : execute w { s with accepted := rest } = .next t) (room : fits { s with accepted := rest } t = true) : Move s t
  /-- A word is accepted (R249). -/
  | accept (w : Word) (rest : List HostEvent) (head : s.agenda = .command w :: rest) (ready : cmdReady w s = true) :
      Move s (acceptWord w rest s)
  /-- A word is offered and not accepted (R249, R244). -/
  | refuse (w : Word) (rest : List HostEvent) (head : s.agenda = .command w :: rest) (unready : cmdReady w s = false)
      (isOpen : portOpen s = true) : Move s { s with readyIn := s.readyIn - 1 }
  /-- An edge with `out_ready` at 1 (R250). -/
  | take (rest : List HostEvent) (head : s.agenda = .outReady :: rest) : Move s (takeRecord { s with agenda := rest })
  /-- A status read (R37). -/
  | status (a : BitVec 4) (rest : List HostEvent) (head : s.agenda = .statusRead a :: rest) :
      Move s (readStatus a { s with agenda := rest })
  /-- `rst_n` goes low for the next reset, past whatever stands before it (R240, R243). -/
  | lower (more : Nat) (rest : List HostEvent) (ahead : afterReset s.agenda = some (more, rest)) :
      Move s (lowerRst more rest s)
  /-- An edge with `rst_n` low (R240). -/
  | reset (low : rstN s = false) : Move s (resetEdge s)

/-- Where a reset is to come: the agenda is what stands before the first reset, that reset, and the rest. -/
theorem afterReset_eq_some {es rest : List HostEvent} {more : Nat} :
    afterReset es = some (more, rest) ↔
      ∃ before, es = before ++ .reset more :: rest ∧ ∀ e ∈ before, ∀ n, e ≠ .reset n := by
  induction es with
  | nil => simp [afterReset]
  | cons e es ih =>
    have cons (he : ∀ n, e ≠ .reset n) :
        (∃ before, es = before ++ .reset more :: rest ∧ ∀ e ∈ before, ∀ n, e ≠ .reset n) ↔
        ∃ before, e :: es = before ++ .reset more :: rest ∧ ∀ e ∈ before, ∀ n, e ≠ .reset n := by
      constructor
      · rintro ⟨b, rfl, hb⟩; exact ⟨e :: b, rfl, by simp_all⟩
      · rintro ⟨b, h, hb⟩
        cases b with
        | nil => exact absurd (List.cons.inj h).1 (he _)
        | cons x b => obtain ⟨_, rfl⟩ := List.cons.inj h; exact ⟨b, rfl, fun y hy => hb y (List.mem_cons_of_mem _ hy)⟩
    cases e with
    | reset n =>
      simp only [afterReset, Option.some.injEq, Prod.mk.injEq]
      constructor
      · rintro ⟨rfl, rfl⟩; exact ⟨[], rfl, by simp⟩
      · rintro ⟨b, h, hb⟩
        cases b with
        | nil => simpa using h
        | cons x b => exact absurd (List.cons.inj h).1.symm (hb x (List.mem_cons_self ..) n)
    | command w => exact ih.trans (cons nofun)
    | outReady => exact ih.trans (cons nofun)
    | statusRead a => exact ih.trans (cons nofun)

/-- The reset takes itself and what stands before it from the agenda. -/
theorem afterReset_length {es rest : List HostEvent} {more : Nat} (h : afterReset es = some (more, rest)) : rest.length < es.length := by
  obtain ⟨b, rfl, -⟩ := afterReset_eq_some.mp h; simp; omega

/-- A move that waits for room has happened only if it fits. -/
theorem ifFits_eq_some {s t : State} {r : Result} (h : ifFits s r = some (.next t)) : r = .next t ∧ fits s t = true := by
  unfold ifFits at h
  split at h
  · split at h <;> simp_all
  · simp at h
  · simp at h

/-- The walker's move is a walker step that fits. -/
theorem walkerMove_eq_some {s t : State} (h : walkerMove s = some (.next t)) :
    walkerStep s = some (.next t) ∧ fits s t = true := by
  unfold walkerMove at h
  split at h
  · rename_i r hr; obtain ⟨rfl, hf⟩ := ifFits_eq_some h; exact ⟨hr, hf⟩
  · simp at h

/-- The effect of the oldest accepted word is a move. -/
theorem portMove_move {s t : State} (h : portMove s = some (.next t)) : Move s t := by
  unfold portMove at h
  split at h
  · simp at h
  · rename_i w rest head
    unfold commandMove at h
    split at h
    · rename_i hw
      obtain ⟨he, hf⟩ := ifFits_eq_some h
      exact .command w rest t head (by simpa using hw) he hf
    · simp at h

/-- One edge with a word offered: accepted or not, and counted as a free choice or not. -/
theorem offerWord_move {s t : State} {w : Word} {rest : List HostEvent} (head : s.agenda = .command w :: rest)
    (isOpen : portOpen s = true) (h : offerWord w rest s = .next t) :
    ∃ m n, Move s m ∧ t = { m with draws := m.draws + n } := by
  have move : Move s (if cmdReady w s then acceptWord w rest s else { s with readyIn := s.readyIn - 1 }) := by
    split
    · exact .accept w rest head ‹_›
    · exact .refuse w rest head (by simpa using ‹¬ cmdReady w s = true›) isOpen
  simp only [offerWord] at h
  split at h <;> simp only [tick, Host.Outcome.next.injEq] at h
  · exact ⟨_, 0, move, h.symm⟩
  · exact ⟨_, 1, move, h.symm⟩

/-- The host's move is one of the kinds of event. -/
theorem hostMove_move {s t : State} (h : hostMove s = some (.next t)) :
    ∃ m n, Move s m ∧ t = { m with draws := m.draws + n } := by
  unfold hostMove at h
  split at h
  · simp at h
  · rename_i w rest head
    split at h
    · exact offerWord_move head ‹_› (by simpa using h)
    · simp at h
  · simp only [Option.some.injEq, Host.Outcome.next.injEq] at h; subst h; exact ⟨_, 0, .take _ ‹_›, rfl⟩
  · simp only [Option.some.injEq, Host.Outcome.next.injEq] at h; subst h; exact ⟨_, 0, .status _ _ ‹_›, rfl⟩
  · simp at h

/-- The reset's move: `rst_n` goes low for the next reset of the agenda. -/
theorem resetMove_move {s t : State} (h : resetMove s = some (.next t)) : Move s t := by
  unfold resetMove at h
  split at h
  · simp at h
  · simp only [Option.some.injEq, Host.Outcome.next.injEq] at h; subst h; exact .lower _ _ ‹_›

/-- A choice of two moves answers one of them, counted or not. -/
theorem choose_eq_some {first : Bool} {a b : Option Result} {t : State} (h : choose first a b = some (.next t)) :
    ∃ m n, (a = some (.next m) ∨ b = some (.next m)) ∧ t = { m with draws := m.draws + n } := by
  unfold choose at h
  split at h
  · exact ⟨t, 0, .inr h, rfl⟩
  · exact ⟨t, 0, .inl h, rfl⟩
  · rename_i x y
    have tick_next {m : Result} (e : tick m = .next t) : ∃ u, m = .next u ∧ t = { u with draws := u.draws + 1 } := by
      cases m <;> simp_all [tick]
    simp only [Option.some.injEq] at h
    split at h
    · obtain ⟨u, rfl, ht⟩ := tick_next h; exact ⟨u, 1, .inl rfl, ht⟩
    · obtain ⟨u, rfl, ht⟩ := tick_next h; exact ⟨u, 1, .inr rfl, ht⟩

/-- A choice answers nothing only where there is nothing to choose. -/
theorem choose_eq_none {first : Bool} {a b : Option Result} (h : choose first a b = none) : a = none ∧ b = none := by
  unfold choose at h; split at h <;> simp_all

/-- With `rst_n` low a step is an edge of the reset (R240). -/
theorem step_of_low {s : State} (low : rstN s = false) : step s = .next (resetEdge s) := by simp [step, advance, low]

/-- With `rst_n` high a step is a move at the ports or of the walker. -/
theorem step_of_high {s : State} (high : rstN s = true) : step s = portsMove s := by simp [step, advance, high]

/-- Everything a step can do, when it answers a next state: one move, after `n` free choices. -/
theorem step_move {s t : State} (h : step s = .next t) : ∃ m n, Move s m ∧ t = { m with draws := m.draws + n } := by
  cases low : rstN s with
  | false =>
    simp only [step_of_low low, Host.Outcome.next.injEq] at h
    exact ⟨_, 0, .reset low, h ▸ rfl⟩
  | true =>
  rw [step_of_high low, portsMove] at h
  generalize hc : choose (Config.resetFirst s.draws) _ _ = c at h
  cases c with
  | none =>
    simp only [Option.getD_none, Host.Outcome.next.injEq] at h
    obtain ⟨hr, hp⟩ := choose_eq_none hc
    obtain ⟨hh, hb⟩ := choose_eq_none hp
    obtain ⟨hc, hw⟩ := choose_eq_none hb
    exact ⟨s, 0, .wait hr hh hc hw, h ▸ rfl⟩
  | some r =>
    simp only [Option.getD_some] at h
    subst h
    obtain ⟨m, n, hm | hm, rfl⟩ := choose_eq_some hc
    · exact ⟨m, n, resetMove_move hm, rfl⟩
    · obtain ⟨m', n', hm' | hm', rfl⟩ := choose_eq_some hm
      · obtain ⟨m'', n'', hm'', rfl⟩ := hostMove_move hm'
        exact ⟨m'', n'' + n' + n, hm'', by simp [Nat.add_assoc]⟩
      · obtain ⟨m'', n'', hm'' | hm'', rfl⟩ := choose_eq_some hm'
        · exact ⟨m'', n'' + n' + n, portMove_move hm'', by simp [Nat.add_assoc]⟩
        · obtain ⟨hs, hf⟩ := walkerMove_eq_some hm''
          exact ⟨m'', n'' + n' + n, .walker m'' hs hf, by simp [Nat.add_assoc]⟩

/-- Where nothing else can move, only a reset can. -/
theorem waits_of_no_move {s : State} (host : hostMove s = none) (port : portMove s = none)
    (walker : walkerMove s = none) : Waits s := by
  refine ⟨step_of_low, fun high h => ?_, fun more rest high h => ?_⟩ <;>
    simp [step_of_high high, portsMove, host, port, walker, resetMove, h, choose]

/-- A step is the one move there is, or a reset. -/
theorem stepsTo_of_ports {s t : State}
    (only : ∀ a b, choose a (hostMove s) (choose b (portMove s) (walkerMove s)) = some (.next t)) : StepsTo s t := by
  refine ⟨step_of_low, fun high h => ?_, fun more rest high h => ?_⟩
  · simp only [step_of_high high, portsMove, only, resetMove, h]; rfl
  · cases hc : Config.resetFirst s.draws
    · exact .inl (by simp only [step_of_high high, portsMove, only, resetMove, h, hc]; rfl)
    · exact .inr (by simp only [step_of_high high, portsMove, only, resetMove, h, hc]; rfl)

/-- Where only the host has a move, a step is that move or a reset. -/
theorem stepsTo_of_hostMove {s t : State} (host : hostMove s = some (.next t)) (port : portMove s = none)
    (walker : walkerMove s = none) : StepsTo s t := stepsTo_of_ports (by simp [host, port, walker, choose])

/-- Where only an accepted command has a move, a step is its effect or a reset. -/
theorem stepsTo_of_portMove {s t : State} (host : hostMove s = none) (port : portMove s = some (.next t))
    (walker : walkerMove s = none) : StepsTo s t := stepsTo_of_ports (by simp [host, port, walker, choose])

/-- Where only the walker has a move, a step is that move or a reset. -/
theorem stepsTo_of_walkerMove {s t : State} (host : hostMove s = none) (port : portMove s = none)
    (walker : walkerMove s = some (.next t)) : StepsTo s t := stepsTo_of_ports (by simp [host, port, walker, choose])

/-- Where host and walker can both move and nothing else can, a step is one of the two moves. -/
theorem step_of_both {s h m : State} (host : hostMove s = some (.next h)) (port : portMove s = none)
    (walker : walkerMove s = some (.next m)) (high : rstN s = true) (noReset : afterReset s.agenda = none) :
    step s = .next { h with draws := h.draws + 1 } ∨ step s = .next { m with draws := m.draws + 1 } := by
  cases hc : Config.hostFirst s.draws
  · exact .inr (by simp [step_of_high high, portsMove, host, port, walker, resetMove, noReset, choose, hc, tick])
  · exact .inl (by simp [step_of_high high, portsMove, host, port, walker, resetMove, noReset, choose, hc, tick])

/-- No step is enabled: walking does nothing. -/
theorem walkFor_of_quiescent {s : State} (h : walkerStep s = none) (n : Nat) : walkFor n s = s := by
  cases n <;> simp [walkFor, h]

/-- No step is enabled: `Walk()` does nothing (R164). -/
theorem walk_of_quiescent {s : State} (h : walkerStep s = none) : walk s = s := walkFor_of_quiescent h _

/-- One enabled step of `Walk()`. -/
theorem walkFor_succ {s t : State} (h : walkerStep s = some (.next t)) (n : Nat) :
    walkFor (n + 1) s = walkFor n t := by simp [walkFor, h]

/-- Quiescence depends on the block alone. -/
theorem quiescent_block {s t : State} (h : s.toBlock = t.toBlock) : quiescent s = quiescent t := by
  have e := walkerStep_block h
  unfold quiescent
  cases ha : walkerStep s <;> cases hb : walkerStep t <;> simp_all

end Sys2Proof.Machine
end

