-- ==== Sys2Proof/Tests/Slice0.lean ====
section
/-! SUPPORT. The model's own tests: expected values from the tables and programs of 95_test_vectors.md and the examples of
the rules; and for each statement with hypotheses a witness that meets them. -/

namespace Sys2Proof.Tests

open Sys2Proof.Machine

/-! ### Small states -/

/-- The next state of a result, for tests only. -/
def after (r : Result) : State :=
  match r with
  | .next t => t
  | .fault _ | .refused _ => State.reset

/-- The image T2 of 95_test_vectors.md 2.1, in IDLE. -/
def t2 : State :=
  { State.reset with nodes := [(0, .leaf 0x41), (1, .leaf 0x42), (2, .internal 0 1)], np := 3, cfg := ⟨2, 0, false, false⟩ }

/-- T2 with a session open. -/
def t2Run : State := openSession t2

/-- T2 with a session open and one bit pending. -/
def t2Bit : State := { t2Run with bitq := [true] }

/-- T2 with its LUT for K = 1 (R175), in IDLE. -/
def t2Lut : State :=
  { t2 with lut := [(0, .lleaf 0x41 1), (1, .lleaf 0x42 1)], cfg := ⟨2, 1, true, false⟩ }

/-- The image T3 of 95_test_vectors.md 2.2, a session open, with bits pending. -/
def t3Run (bits : List Bool) : State :=
  openSession { State.reset with
    nodes := [(0, .leaf 0x61), (1, .leaf 0x62), (2, .leaf 0x63), (3, .internal 1 2), (4, .internal 0 3)], np := 5,
    cfg := ⟨4, 0, false, false⟩, bitq := [] } |> pushBits bits

/-- T3 inside a codeword: W3's end state, with bits pending. -/
def t3Inside (bits : List Bool) : State := { t3Run bits with cur := 3, depth := 1, bitCount := 1 }

/-- T3 with K = 1 and one LUT entry at index 0, a session open, with bits pending. -/
def t3Lut (e : LutEntry) (bits : List Bool) : State :=
  { t3Run bits with cfg := ⟨4, 1, true, false⟩, lut := [(0, e)] }

/-- The self-loop of W10, at its end. -/
def selfLoop : State :=
  { State.reset with nodes := [(0, .internal 0 0)], sess := .run, depth := 4094, bitCount := 4094, bitq := [false] }

/-- A state in ERROR, by N3. -/
def failed : State :=
  { t2Run with sess := .error, errCode := 9, errInfo := 0x03000043, outq := [.err 9] }

/-- The end of a session, by S10. -/
def finished : State := { t2Run with sess := .done, eosSeen := true, outq := [.fin 0] }

/-- The walker draining, with nothing pending. -/
def draining : State := { t2Run with sess := .drain, eosSeen := true }

/-! ### Well-formedness: an ill-formed term for each check -/

theorem test_count_zero_ill_formed : Instr.wellFormed (.pushb 0 0) = false := by decide
theorem test_count_17_ill_formed : Instr.wellFormed (.pushb 17 0) = false := by decide
theorem test_count_16_well_formed : Instr.wellFormed (.pushb 16 0x8001) = true := by decide

/-! ### Decoding, words written out from R91, R92 and 95_test_vectors.md -/

/-- E1, E2. -/
theorem test_decode_nop : decode 0b00000000000000000000000000000000#32 = .ok .nop ∧
    decode 0x00000001#32 = .error (.reservedBit .nop) := ⟨rfl, rfl⟩
/-- E3, E4. -/
theorem test_decode_setnp : decode 0b00000001000000000000111111111111#32 = .ok (.setnp 4095) ∧
    decode 0x01001000#32 = .error (.reservedBit .setnp) := ⟨rfl, rfl⟩
/-- N2: RIGHT in [23:12], LEFT in [11:0]. -/
theorem test_decode_wni : decode 0b00000010000000000010000000000001#32 = .ok (.wni 1 2) := rfl
/-- E6, E7. -/
theorem test_decode_wnl : decode 0b00000011000000001111111111111111#32 = .ok (.wnl 0xFFFF) ∧
    decode 0x03010000#32 = .error (.reservedBit .wnl) := ⟨rfl, rfl⟩
/-- E8, E9. -/
theorem test_decode_setlp : decode 0b00000100000000000000001111111111#32 = .ok (.setlp 1023) ∧
    decode 0x04000400#32 = .error (.reservedBit .setlp) := ⟨rfl, rfl⟩
/-- R131's example, E11. -/
theorem test_decode_wll : decode 0b00000101000000110000000001101111#32 = .ok (.wll 0x6F 3) ∧
    decode 0x05100000#32 = .error (.reservedBit .wll) := ⟨rfl, rfl⟩
/-- R132's example, E13. -/
theorem test_decode_wln : decode 0b00000110000000000000000000001010#32 = .ok (.wln 10) ∧
    decode 0x06001000#32 = .error (.reservedBit .wln) := ⟨rfl, rfl⟩
/-- R133, E14. -/
theorem test_decode_wlx : decode 0b00000111000000000000000000000000#32 = .ok .wlx ∧
    decode 0x07000001#32 = .error (.reservedBit .wlx) := ⟨rfl, rfl⟩
/-- R141's example, E15, S19. -/
theorem test_decode_cfg : decode 0b00001000000000010011000000010010#32 = .ok (.cfg 18 3 true false) ∧
    decode 0x08020002#32 = .ok (.cfg 2 0 false true) ∧ decode 0x08040000#32 = .error (.reservedBit .cfg) :=
  ⟨rfl, rfl, rfl⟩
/-- R142, E16. -/
theorem test_decode_start : decode 0b00001001000000000000000000000000#32 = .ok .start ∧
    decode 0x09000001#32 = .error (.reservedBit .start) := ⟨rfl, rfl⟩
/-- R143's example, E19 to E22. -/
theorem test_decode_pushb : decode 0b00001010000001000000000000000110#32 = .ok (.pushb 4 0b0110) ∧
    decode 0x0A000000#32 = .error .badCount ∧ decode 0x0A110000#32 = .error .badCount ∧
    decode 0x0A1F0000#32 = .error .badCount ∧ decode 0x0A200000#32 = .error (.reservedBit .pushb) :=
  ⟨rfl, rfl, rfl, rfl, rfl⟩
/-- R144, E23. -/
theorem test_decode_eos : decode 0b00001011000000000000000000000000#32 = .ok .eos ∧
    decode 0x0B800000#32 = .error (.reservedBit .eos) := ⟨rfl, rfl⟩
/-- R145, E24 to E26. -/
theorem test_decode_abort : decode 0b00001100000000000000000000000000#32 = .ok .abort ∧
    decode 0x0C000100#32 = .error (.reservedBit .abort) ∧ decode 0x0D000000#32 = .error .reservedOpcode ∧
    decode 0xFF000000#32 = .error .reservedOpcode := ⟨rfl, rfl, rfl, rfl⟩
/-- P3's words, encoded. -/
theorem test_encode_words : encode (.wni 16 17) = 0x02011010#32 ∧ encode (.cfg 18 3 true false) = 0x08013012#32 ∧
    encode (.pushb 16 0xAFD8) = 0x0A10AFD8#32 ∧ encode (.wll 0x6F 3) = 0x0503006F#32 := by decide
theorem test_table_word : decodeTableWord 32 0x0A040006 = some (.pushb 4 6) ∧ decodeTableWord 32 0x0D000000 = none := by
  decide

/-! ### One command each -/

/-- R120's example. -/
theorem test_setnp : (after (exec (.setnp 0x0A0) { State.reset with np := 7 })).np = 0x0A0 := by decide
/-- N2: entry 4095, and NP wraps. -/
theorem test_wni_wraps :
    nodeRead 4095 (after (exec (.wni 3 4) { State.reset with np := 4095 })) = some (.internal 3 4) ∧
    (after (exec (.wni 3 4) { State.reset with np := 4095 })).np = 0 := by decide
/-- N5: an entry written twice holds the last write. -/
theorem test_wnl_overwrites : nodeRead 1 (after (exec (.wnl 0x5A) { t2 with np := 1 })) = some (.leaf 0x5A) := by decide
/-- N3: a table write in RUN. -/
theorem test_wnl_in_run :
    statusPort (after (exec (.wnl 0x43) t2Run)) 1 = 0x00010914 ∧ (after (exec (.wnl 0x43) t2Run)).errInfo = 0x03000043 ∧
    (after (exec (.wnl 0x43) t2Run)).np = 3 ∧ nodeRead 3 (after (exec (.wnl 0x43) t2Run)) = none := by decide
/-- E8. -/
theorem test_setlp : (after (exec (.setlp 1023) State.reset)).lp = 1023 := by decide
/-- U2: a length of 0 is accepted. -/
theorem test_wll : lutRead 5 (after (exec (.wll 0x41 0) { State.reset with lp := 5 })) = some (.lleaf 0x41 0) := by decide
/-- U2. -/
theorem test_wln : lutRead 6 (after (exec (.wln 4095) { State.reset with lp := 6 })) = some (.lnode 4095) ∧
    (after (exec (.wln 4095) { State.reset with lp := 6 })).lp = 7 := by decide
/-- U1: LP wraps. -/
theorem test_wlx_wraps : lutRead 1023 (after (exec .wlx { State.reset with lp := 1023 })) = some .linvalid ∧
    (after (exec .wlx { State.reset with lp := 1023 })).lp = 0 := by decide
/-- S3: any K is stored with the LUT off. -/
theorem test_cfg_lut_off : statusPort (after (exec (.cfg 18 15 false false) State.reset)) 2 = 0x0000F012 := by decide
/-- E17: BAD_CFG. -/
theorem test_cfg_bad : statusPort (after (exec (.cfg 4095 15 true true) State.reset)) 1 = 0x00010A14 ∧
    (after (exec (.cfg 4095 15 true true) State.reset)).errInfo = 0x0803FFFF ∧
    statusPort (after (exec (.cfg 4095 15 true true) State.reset)) 2 = 0 := by decide
/-- P5: START leaves ERROR. -/
theorem test_start_leaves_error : (after (exec .start failed)).sess = .run ∧ (after (exec .start failed)).errCode = 0 ∧
    (after (exec .start failed)).outq = [.err 9] := by decide
/-- S6: START in RUN. -/
theorem test_start_in_run : (after (exec .start t2Run)).errInfo = 0x09000000 ∧
    (after (exec .start t2Run)).outq.map Record.word = [0x80000009] := by decide
/-- S12: DATA[15] first. -/
theorem test_pushb_msb_first : (after (exec (.pushb 16 0x8001) t2Run)).bitq =
    [true, false, false, false, false, false, false, false, false, false, false, false, false, false, false, true] := by
  decide
/-- S11: DATA above CNT is ignored. -/
theorem test_pushb_ignores_high_data : (after (exec (.pushb 1 0xFFFE) t2Run)).bitq = [false] := by decide
/-- S9: EOS in DONE. -/
theorem test_eos_in_done : statusPort (after (exec .eos finished)) 1 = 0x0001091C ∧
    (after (exec .eos finished)).errInfo = 0x0B000000 := by decide
/-- R144. -/
theorem test_eos_in_run : (after (exec .eos t2Run)).sess = .drain ∧ (after (exec .eos t2Run)).eosSeen = true := by decide
/-- S15: ABORT in IDLE. -/
theorem test_abort_in_idle :
    after (exec .abort { State.reset with cfg := ⟨7, 0, false, false⟩ }) =
      { State.reset with cfg := ⟨7, 0, false, false⟩, cur := 7 } := by decide
/-- S14: the counters are kept. -/
theorem test_abort_keeps_counters : (after (exec .abort (t3Inside [true]))).bitCount = 1 ∧
    (after (exec .abort (t3Inside [true]))).bitq = [] ∧ (after (exec .abort (t3Inside [true]))).cur = 4 := by decide
/-- R146, S16. -/
theorem test_nop_in_error : after (exec .nop failed) = failed := by decide
/-- S18: an illegal word in ERROR does not abort. -/
theorem test_illegal_in_error : after (execute 0x0C000001 failed) = failed := by decide
/-- E2, E25: an illegal word in IDLE. -/
theorem test_illegal_in_idle : statusPort (after (execute 0x0D000000 State.reset)) 1 = 0x00010814 ∧
    (after (execute 0x0D000000 State.reset)).errInfo = 0x0D000000 := by decide

/-! ### One walker step each -/

/-- The next state of a walker step, for tests only. -/
def stepped (s : State) : State := ((walkerStep s).map after).getD State.reset

/-- S21: the right child on a 1 bit. -/
theorem test_serial_leaf : (stepped t2Bit).outq.map Record.word = [0x00000042] ∧ (stepped t2Bit).bitCount = 1 := by decide
/-- W3: into the codeword. -/
theorem test_serial_internal : (stepped (t3Run [true])).cur = 3 ∧ (stepped (t3Run [true])).depth = 1 ∧
    (stepped (t3Run [true])).bitq = [] := by decide
/-- W4: inside a codeword. -/
theorem test_serial_inside : (stepped (t3Inside [false])).outq.map Record.word = [0x00000062] ∧
    (stepped (t3Inside [false])).cur = 4 ∧ (stepped (t3Inside [false])).depth = 0 := by decide
/-- W5: truncated input. -/
theorem test_truncated : statusPort (stepped { t3Inside [] with sess := .drain, eosSeen := true }) 1 = 0x0001010C ∧
    (stepped { t3Inside [] with sess := .drain, eosSeen := true }).errInfo = 1 := by decide
/-- W8: an unwritten root; nothing is consumed. -/
theorem test_unwritten_root :
    statusPort (stepped { State.reset with sess := .run, bitq := [false] }) 1 = 0x00000214 ∧
    (stepped { State.reset with sess := .run, bitq := [false] }).bitq = [false] := by decide
/-- W11: the code-length limit. -/
theorem test_depth_overflow : statusPort (stepped selfLoop) 1 = 0x00000504 ∧ statusPort (stepped selfLoop) 3 = 0x00000FFE ∧
    statusPort (stepped selfLoop) 7 = 0x0FFE0000 ∧ statusPort (stepped selfLoop) 8 = 1 := by decide
/-- W12: a leaf root, on a 1 bit. -/
theorem test_degenerate : (stepped { State.reset with
    nodes := [(0, .leaf 0x61)], sess := .run, bitq := [true, false] }).outq.map Record.word = [0x00000061] := by decide
/-- S10: the end of an empty session. -/
theorem test_finish : statusPort (stepped draining) 1 = 0x0001001B ∧
    (stepped draining).outq.map Record.word = [0x40000000] := by decide
/-- L1, on T3: an invalid entry. -/
theorem test_lut_invalid : (stepped (t3Lut .linvalid [false])).outq.map Record.word = [0x80000003] ∧
    (stepped (t3Lut .linvalid [false])).bitq = [false] := by decide
/-- L3, L4, on T3: a length above K, and a length of 0. -/
theorem test_lut_bad_len : (stepped (t3Lut (.lleaf 0x61 2) [false])).outq.map Record.word = [0x80000004] ∧
    (stepped (t3Lut (.lleaf 0x61 0) [false])).outq.map Record.word = [0x80000004] := by decide
/-- L5, L6, L8, on T3: an LNode that names a leaf, an unwritten node, an internal node. -/
theorem test_lut_node : (stepped (t3Lut (.lnode 0) [false])).outq.map Record.word = [0x00000061] ∧
    (stepped (t3Lut (.lnode 99) [false])).outq.map Record.word = [0x80000002] ∧
    (stepped (t3Lut (.lnode 3) [false])).cur = 3 ∧ (stepped (t3Lut (.lnode 3) [false])).depth = 1 := by decide
/-- L7: fewer than K bits and no EOS: the walker waits. -/
theorem test_lut_waits : walkerStep { t3Run [false] with cfg := ⟨4, 2, true, false⟩ } = none := rfl
/-- R70: the first bit is the most significant. -/
theorem test_lut_index : bitsToNat [true, false, true] = 5 ∧ bitsToNat [true, true, false] = 6 := by decide

/-! ### The block -/

/-- Z1 to Z4. -/
theorem test_status_after_reset : (List.range 16).map (fun a => statusPort State.reset (BitVec.ofNat 4 a)) =
    [0x48445731, 0x00030010, 0, 0, 0, 0, 0, 0, 0, 0, 0, 0, 0, 0, 0, 0] := by decide
/-- P3's PTRS. -/
theorem test_status_ptrs : statusPort { State.reset with np := 19, lp := 8 } 6 = 0x00080013 := by decide
/-- S19: the irq bit. -/
theorem test_status_irq : statusPort { finished with cfg := ⟨2, 0, false, true⟩ } 1 = 0x0001003B := by decide
/-- The first command after reset: N1's. -/
theorem test_step_runs_command :
    step (State.reset.withFetchWord 32 0x01000FFF) = .next { State.reset with np := 4095 } := rfl
/-- The first command after reset, an illegal word: E25. -/
theorem test_step_raises_illegal : step (State.reset.withFetchWord 32 0x0D000000) =
    .next { State.reset with errCode := 8, errInfo := 0x0D000000, sess := .error, outq := [.err 8] } := rfl
/-- A take of one record (R250). -/
theorem test_step_take : step { finished with agenda := [.outReady] } =
    .next { finished with outq := [], taken := [.fin 0] } := rfl
/-- Z7: reset loses the records that were not taken, whose port is silent from the moment `rst_n` is low (R240). -/
theorem test_step_reset : step { finished with agenda := [.reset 0] } = .next { finished with lowEdges := 1 } ∧
    outValid finished = true ∧ outValid { finished with lowEdges := 1 } = false ∧
    (after (step { finished with lowEdges := 1 })).toBlock = Block.reset ∧
    rstN (after (step { finished with lowEdges := 1 })) = true := ⟨rfl, rfl, rfl, rfl, rfl⟩

/-- R249: a word that is offered is accepted, and nothing of the block changes. -/
theorem test_step_accepts : step { State.reset with agenda := [.command 0x01000FFF] } =
    .next { State.reset with accepted := [0x01000FFF] } := rfl
/-- R249, R254: a SETNP that waits for the walker holds the port; a NOP does not. -/
theorem test_port_held : (∀ w, cmdReady w { t2Bit with accepted := [0x01000FFF] } = false) ∧
    portOpen { t2Bit with accepted := [0] } = true := ⟨fun _ => rfl, by decide⟩
/-- R240, R244: `cmd_ready` is 0 while `rst_n` is low, and while the cycles after a reset last. -/
theorem test_port_after_reset : cmdReady 0 State.reset = true ∧ cmdReady 0 { State.reset with lowEdges := 2 } = false ∧
    cmdReady 0 { State.reset with readyIn := 1 } = false := ⟨rfl, rfl, rfl⟩
/-- R243: a reset behind an accepted word and a word on the port loses both, the accepted word on its first edge. -/
theorem test_reset_overtakes :
    resetMove { finished with accepted := [0], agenda := [.command 0x01000FFF, .outReady, .reset 2, .outReady] } =
      some (.next { finished with accepted := [0], agenda := [.outReady], lowEdges := 3 }) ∧
    (resetEdge { finished with accepted := [0], lowEdges := 3 }).accepted = [] := ⟨rfl, rfl⟩

/-! ### The assembler -/

/-- R110's CFG with operands left out, and a comment. -/
theorem test_assemble_cfg :
    assembleLine ['C', 'F', 'G', ' ', '1', '8', ',', ' ', '0', 'x', '3', ',', '1', ' ', ';', ' ', 'x'] =
      some [0x08013012] := by decide
/-- R110: a quoted character. -/
theorem test_assemble_char : assembleLine ['W', 'N', 'L', ' ', singleQuote, 'h', singleQuote] = some [0x03000068] := by
  decide
/-- R111's example. -/
theorem test_assemble_pushs :
    assembleLine ['P', 'U', 'S', 'H', 'S', ' ', doubleQuote, '0', '1', ' ', '1', '0', doubleQuote] = some [0x0A040006] := by
  decide
/-- U4. -/
theorem test_assemble_wllrep :
    assembleLine ['W', 'L', 'L', 'R', 'E', 'P', ' ', '0', 'x', '4', '1', ',', ' ', '1', ',', ' ', '3'] =
      some [0x05010041, 0x05010041, 0x05010041, 0x05010041] := by decide
/-- R110: an operand that does not fit is an error; R114: so is an unknown mnemonic. -/
theorem test_assemble_errors : assembleLine ['S', 'E', 'T', 'N', 'P', ' ', '4', '0', '9', '6'] = none ∧
    assembleLine ['H', 'A', 'L', 'T'] = none := by decide

end Sys2Proof.Tests
end

