-- ==== Sys2Proof/Tests/Witnesses.lean ====
section
/-! SUPPORT. For each statement that has hypotheses, a concrete state and operands that meet all of them together, and
for a statement with several clauses one for each clause, at the ends of its ranges. -/

namespace Sys2Proof.Tests

open Sys2Proof.Machine

/-! ### States that meet the invariant -/

/-- The invariant, for a state at a boundary that stands at the root, with no error recorded. -/
theorem inv_at_boundary {s : State} (memory : Memory.wf s = true) (legal : cfgLegal s.cfg.k s.cfg.lutEn = true)
    (root : s.cur = s.cfg.root) (boundary : s.depth = 0) (run : s.sess = .run → s.eosSeen = false)
    (drain : s.sess = .drain → s.eosSeen = true) (noError : s.sess ≠ .error ∧ s.errCode = 0)
    (settled : s.sess = .idle ∨ s.sess = .done → s.bitq = []) : s.Inv where
  memory := memory
  cfgLegal := legal
  atRoot _ _ := root
  inside _ h := absurd boundary h
  eosInRun := run
  eosInDrain := drain
  depthBound := by rw [boundary]; decide
  errorRecorded := ⟨fun h => absurd h noError.1, fun h => absurd noError.2 h⟩
  errorNamed h := absurd h noError.1
  settled h := ⟨settled h, boundary⟩

theorem t2_inv : t2.Inv :=
  { memory := by decide, cfgLegal := by decide
    atRoot := fun h _ => by rcases h with h | h <;> exact absurd h (by decide)
    inside := fun _ h => absurd rfl h
    eosInRun := fun _ => rfl
    eosInDrain := fun h => absurd h (by decide)
    depthBound := by decide
    errorRecorded := ⟨fun h => absurd h (by decide), fun h => absurd rfl h⟩
    errorNamed := fun h => absurd h (by decide)
    settled := fun _ => ⟨rfl, rfl⟩ }

theorem t2Lut_inv : t2Lut.Inv :=
  { t2_inv with memory := by decide, cfgLegal := by decide }

theorem t2Bit_inv : t2Bit.Inv :=
  inv_at_boundary (by decide) (by decide) rfl rfl (fun _ => rfl) (fun h => absurd h (by decide)) (by decide)
    (fun h => absurd h (by decide))

theorem draining_inv : draining.Inv :=
  inv_at_boundary (by decide) (by decide) rfl rfl (fun h => absurd h (by decide)) (fun _ => rfl) (by decide)
    (fun h => absurd h (by decide))

/-- A block whose root is not written, with a bit pending. -/
def rootless : State := { State.reset with sess := .run, bitq := [false] }

theorem rootless_inv : rootless.Inv :=
  inv_at_boundary (by decide) (by decide) rfl rfl (fun _ => rfl) (fun h => absurd h (by decide)) (by decide)
    (fun h => absurd h (by decide))

/-! ### Encoding -/

theorem witness_DecodeOfEncode : Instr.wellFormed (.pushb 16 0xFFFF) = true ∧ Instr.wellFormed (.pushb 1 0) = true := by
  decide
theorem witness_EncodeOfDecode : decode 0x0A01FFFE#32 = .ok (.pushb 1 0xFFFE) := rfl
theorem witness_AtMostOneRowSelects :
    (0x01000FFF#32 &&& Opcode.setnp.mask = Opcode.setnp.matchWord) ∧
    (∀ op : Opcode, 0x0D000000#32 &&& op.mask ≠ op.matchWord) := ⟨by decide, fun op => by cases op <;> decide⟩
theorem witness_IllegalWordsRaise :
    decode 0x0A110000#32 = .error .badCount ∧ State.reset.sess ≠ .error ∧ failed.sess = .error := ⟨rfl, by decide, rfl⟩

/-! ### Commands -/

/-- A word with zeros in the reserved bits, for each row of `RowEncoding`. The words with a 1 there stand with the statements. -/
theorem witness_RowEncoding :
    (field 0x00000000#32 24 8 = 0x00#8 ∧ field 0x00000000#32 0 24 = 0) ∧
    (field 0x01000FFF#32 24 8 = 0x01#8 ∧ field 0x01000FFF#32 12 12 = 0) ∧
    (field 0x0300FFFF#32 24 8 = 0x03#8 ∧ field 0x0300FFFF#32 16 8 = 0) ∧
    (field 0x040003FF#32 24 8 = 0x04#8 ∧ field 0x040003FF#32 10 14 = 0) ∧
    (field 0x050AFFFF#32 24 8 = 0x05#8 ∧ field 0x050AFFFF#32 20 4 = 0) ∧
    (field 0x06000FFF#32 24 8 = 0x06#8 ∧ field 0x06000FFF#32 12 12 = 0) ∧
    (field 0x07000000#32 24 8 = 0x07#8 ∧ field 0x07000000#32 0 24 = 0) ∧
    (field 0x0803FFFF#32 24 8 = 0x08#8 ∧ field 0x0803FFFF#32 18 6 = 0) ∧
    (field 0x09000000#32 24 8 = 0x09#8 ∧ field 0x09000000#32 0 24 = 0) ∧
    (field 0x0A108001#32 24 8 = 0x0A#8 ∧ field 0x0A108001#32 21 3 = 0) ∧
    (field 0x0B000000#32 24 8 = 0x0B#8 ∧ field 0x0B000000#32 0 24 = 0) ∧
    (field 0x0C000000#32 24 8 = 0x0C#8 ∧ field 0x0C000000#32 0 24 = 0) ∧
    Instr.wellFormed (.pushb (field 0x0A108001#32 16 5) (field 0x0A108001#32 0 16)) = true := by decide
theorem witness_outside_and_in_session : (State.reset.sess ≠ .run ∧ State.reset.sess ≠ .drain) ∧
    (finished.sess ≠ .run ∧ finished.sess ≠ .drain) ∧ (failed.sess ≠ .run ∧ failed.sess ≠ .drain) ∧ t2Run.sess = .run := by
  decide
theorem witness_SetnpSetsNodePointer : (State.reset.sess ≠ .run ∧ State.reset.sess ≠ .drain) ∧ t2Run.sess = .run ∧
    field 0x01001000#32 24 8 = 0x01#8 ∧ field 0x01001000#32 12 12 ≠ 0 := by decide
theorem witness_WniWritesInternalNode : (finished.sess ≠ .run ∧ finished.sess ≠ .drain) ∧ t2Run.sess = .run ∧
    field 0x02FFFFFF#32 24 8 = 0x02#8 ∧ (0 : NodeIdx) ≠ finished.np := by decide
theorem witness_WnlWritesLeaf : (failed.sess ≠ .run ∧ failed.sess ≠ .drain) ∧ t2Run.sess = .run ∧
    field 0x03010000#32 24 8 = 0x03#8 ∧ field 0x03010000#32 16 8 ≠ 0 ∧ (0 : NodeIdx) ≠ failed.np := by decide
theorem witness_SetlpSetsLutPointer : (State.reset.sess ≠ .run ∧ State.reset.sess ≠ .drain) ∧ t2Run.sess = .run ∧
    field 0x04000400#32 24 8 = 0x04#8 ∧ field 0x04000400#32 10 14 ≠ 0 := by decide
theorem witness_WllWritesLeafHit : (State.reset.sess ≠ .run ∧ State.reset.sess ≠ .drain) ∧ t2Run.sess = .run ∧
    field 0x05100000#32 24 8 = 0x05#8 ∧ field 0x05100000#32 20 4 ≠ 0 ∧ (1023 : LutIdx) ≠ State.reset.lp := by decide
theorem witness_WlnWritesNodeHit : (State.reset.sess ≠ .run ∧ State.reset.sess ≠ .drain) ∧ t2Run.sess = .run ∧
    field 0x06001000#32 24 8 = 0x06#8 ∧ field 0x06001000#32 12 12 ≠ 0 ∧ (1 : LutIdx) ≠ State.reset.lp := by decide
theorem witness_WlxWritesInvalidEntry : (State.reset.sess ≠ .run ∧ State.reset.sess ≠ .drain) ∧ t2Run.sess = .run ∧
    field 0x07000001#32 24 8 = 0x07#8 ∧ field 0x07000001#32 0 24 ≠ 0 ∧ (1 : LutIdx) ≠ State.reset.lp := by decide
theorem witness_CfgWritesConfiguration : (State.reset.sess ≠ .run ∧ State.reset.sess ≠ .drain) ∧ t2Run.sess = .run ∧
    (1 ≤ (1#4).toNat ∧ (1#4).toNat ≤ 10) ∧ (1 ≤ (10#4).toNat ∧ (10#4).toNat ≤ 10) ∧ (0#4).toNat = 0 ∧
    10 < (11#4).toNat ∧ 10 < (15#4).toNat ∧ field 0x08040000#32 24 8 = 0x08#8 ∧ field 0x08040000#32 18 6 ≠ 0 := by decide
theorem witness_StartOpensSession : (failed.sess ≠ .run ∧ failed.sess ≠ .drain) ∧ t2Run.sess = .run ∧
    field 0x09000001#32 24 8 = 0x09#8 ∧ field 0x09000001#32 0 24 ≠ 0 := by decide
theorem witness_PushbAppendsBits : 1 ≤ (1#5).toNat ∧ (16#5).toNat ≤ 16 ∧ t2Run.sess = .run ∧ State.reset.sess = .idle ∧
    finished.sess = .done ∧ failed.sess = .error ∧
    (field 0x0A200000#32 24 8 = 0x0A#8 ∧ field 0x0A200000#32 21 3 ≠ 0) ∧
    (field 0x0A000000#32 24 8 = 0x0A#8 ∧ (field 0x0A000000#32 16 5).toNat = 0) ∧
    (field 0x0A110000#32 24 8 = 0x0A#8 ∧ 16 < (field 0x0A110000#32 16 5).toNat) := by decide
/-- A PUSHB for which BITQ has no room. -/
theorem witness_PushbAppendsBits_waits : ∃ (s : State) (rest : List Word), s.sess = .run ∧
    s.accepted = encode (.pushb 1 0) :: rest ∧ Config.bitqDepth < s.bitq.length + (1#5).toNat :=
  ⟨{ t2Run with accepted := [encode (.pushb 1 0)], bitq := List.replicate Config.bitqDepth false }, [], rfl, rfl,
    by simp⟩
theorem witness_EosMarksEnd : t2Run.sess = .run ∧ State.reset.sess = .idle ∧ finished.sess = .done ∧
    failed.sess = .error ∧ field 0x0B800000#32 24 8 = 0x0B#8 ∧ field 0x0B800000#32 0 24 ≠ 0 := by decide
theorem witness_AbortClosesSession : t2Run.sess ≠ .drain ∧ failed.sess ≠ .drain ∧
    field 0x0C000100#32 24 8 = 0x0C#8 ∧ field 0x0C000100#32 0 24 ≠ 0 := by decide
theorem witness_NopChangesNothing : field 0x00000001#32 24 8 = 0x00#8 ∧ field 0x00000001#32 0 24 ≠ 0 := by decide
theorem witness_CommandsWaitInDrain :
    Instr.wellFormed .abort = true ∧ Instr.abort ≠ .nop ∧ draining.sess = .drain := by decide
theorem witness_CommandFrame : exec (.wnl 0x41) State.reset =
    .next { State.reset with nodes := [(0, .leaf 0x41)], np := 1 } := rfl

/-! ### Memory -/

theorem witness_TableWriteReplacesOneEntry : (0 : NodeIdx) ≠ 4095 ∧ (0 : LutIdx) ≠ 1023 ∧
    (step t2Lut = .next t2Lut ∧ ¬ ByReset t2Lut t2Lut ∧ nodeRead 0 t2Lut ≠ none ∧ lutRead 1 t2Lut ≠ none) :=
  ⟨by decide, by decide, rfl, nofun, by decide, by decide⟩
theorem witness_PeekIsFirstBitFirst :
    3 ≤ (t3Run [true, false, true]).bitq.length ∧ 0 ≤ (t3Run []).bitq.length ∧ 2 < 3 := by decide

/-! ### Walker steps -/

theorem witness_FinishStepEmitsEnd : active draining ∧ draining.bitq = [] ∧ draining.eosSeen = true ∧ draining.depth = 0 :=
  ⟨.inr rfl, rfl, rfl, rfl⟩

/-- T3 inside a codeword at the end of the bits (W5). -/
def cutShort : State := { t3Inside [] with sess := .drain, eosSeen := true }

theorem witness_TruncatedInputStep :
    active cutShort ∧ cutShort.bitq = [] ∧ cutShort.eosSeen = true ∧ cutShort.depth ≠ 0 :=
  ⟨.inr rfl, rfl, rfl, by decide⟩
theorem witness_UnwrittenRootStep :
    (active rootless ∧ rootless.bitq ≠ [] ∧ rootless.depth = 0 ∧ nodeRead rootless.cfg.root rootless = none) ∧
    (State.reset.sess ≠ .run ∧ State.reset.sess ≠ .drain ∧ nodeRead State.reset.cfg.root State.reset = none) :=
  ⟨⟨.inl rfl, by decide, rfl, rfl⟩, by decide, by decide, rfl⟩

/-- The one-leaf image D1 with a session open and a bit pending. -/
def d1Run : State := { State.reset with nodes := [(0, .leaf 0x61)], sess := .run, bitq := [true] }

theorem witness_DegenerateStepEmitsSymbol : active d1Run ∧ d1Run.bitq = true :: [] ∧ d1Run.depth = 0 ∧
    nodeRead d1Run.cfg.root d1Run = some (.leaf 0x61) := ⟨.inl rfl, rfl, rfl, rfl⟩
/-- Inside a codeword, at a boundary with the LUT off, and at a boundary with fewer than K bits after EOS; and each of the
four outcomes: a leaf, an internal node, the length limit, an unwritten node. -/
theorem witness_SerialStepDescends :
    (active (t3Inside [false]) ∧ (t3Inside [false]).bitq = false :: [] ∧ (t3Inside [false]).depth ≠ 0 ∧
      nodeRead (t3Inside [false]).cur (t3Inside [false]) = some (.internal 1 2) ∧
      nodeRead 1 (t3Inside [false]) = some (.leaf 0x62)) ∧
    (active (t3Run [true]) ∧ (t3Run [true]).bitq = true :: [] ∧ (t3Run [true]).depth = 0 ∧
      nodeRead (t3Run [true]).cfg.root (t3Run [true]) = some (.internal 0 3) ∧ (t3Run [true]).cfg.lutEn = false ∧
      nodeRead 3 (t3Run [true]) = some (.internal 1 2) ∧ (t3Run [true]).depth.toNat + 1 ≠ 4095) ∧
    (active selfLoop ∧ selfLoop.bitq = false :: [] ∧ selfLoop.depth ≠ 0 ∧
      nodeRead selfLoop.cur selfLoop = some (.internal 0 0) ∧ selfLoop.depth.toNat + 1 = 4095) ∧
    (nodeRead 5 (t3Run []) = none) ∧
    (∃ s : State, active s ∧ s.bitq = false :: [] ∧ s.depth = 0 ∧ nodeRead s.cfg.root s = some (.internal 0 3) ∧
      s.bitq.length < s.cfg.k.toNat ∧ s.eosSeen = true) :=
  ⟨⟨.inl rfl, rfl, by decide, rfl, rfl⟩, ⟨.inl rfl, rfl, rfl, rfl, rfl, rfl, by decide⟩,
    ⟨.inl rfl, rfl, by decide, rfl, by decide⟩, rfl,
    ⟨{ t3Run [false] with cfg := ⟨4, 2, true, false⟩, sess := .drain, eosSeen := true },
      .inr rfl, rfl, rfl, rfl, by decide, rfl⟩⟩
theorem witness_LutStepResolvesPrefix :
    (active (t3Lut (.lnode 3) [false]) ∧ (t3Lut (.lnode 3) [false]).depth = 0 ∧
      nodeRead (t3Lut (.lnode 3) [false]).cfg.root (t3Lut (.lnode 3) [false]) = some (.internal 0 3) ∧
      (t3Lut (.lnode 3) [false]).cfg.lutEn = true ∧ 1 = (t3Lut (.lnode 3) [false]).cfg.k.toNat ∧
      1 ≤ (t3Lut (.lnode 3) [false]).bitq.length ∧
      some (.lnode 3) = lutRead (BitVec.ofNat 10 (bitsToNat (peek 1 (t3Lut (.lnode 3) [false])))) (t3Lut (.lnode 3) [false])) ∧
    (none = lutRead (BitVec.ofNat 10 (bitsToNat (peek 1 (t3Lut .linvalid [true])))) (t3Lut .linvalid [true])) ∧
    (some (.lleaf 0x61 1) =
      lutRead (BitVec.ofNat 10 (bitsToNat (peek 1 (t3Lut (.lleaf 0x61 1) [false])))) (t3Lut (.lleaf 0x61 1) [false])) ∧
    (1#4 ≠ 0 ∧ (1#4).toNat ≤ 1) ∧ 1 < (2#4).toNat ∧
    (nodeRead 99 (t3Run []) = none ∧ nodeRead 0 (t3Run []) = some (.leaf 0x61) ∧ nodeRead 3 (t3Run []) = some (.internal 1 2)) :=
  ⟨⟨.inl rfl, rfl, rfl, rfl, rfl, by decide, rfl⟩, rfl, rfl, by decide, by decide, rfl, rfl, rfl⟩
theorem witness_WalkerFrame : walkerStep t2Bit = some (.next (emitSymbol 0x42 (consume 1 t2Bit))) ∧
    walkerStep rootless = some (.next (raise .unwrittenNode 0 rootless)) := ⟨rfl, rfl⟩

/-! ### The walk and the errors -/

theorem witness_QuiescenceIsThreeCases : t2.Inv ∧ t2Bit.Inv ∧ draining.Inv := ⟨t2_inv, t2Bit_inv, draining_inv⟩
theorem witness_WalkReachesQuiescence :
    t2Bit.Inv ∧ walkerStep t2Bit = some (.next (emitSymbol 0x42 (consume 1 t2Bit))) ∧ t2Bit.bitq.length + 1 ≤ 2 :=
  ⟨t2Bit_inv, rfl, by decide⟩
/-- The walker draining while the host waits with START. -/
theorem witness_DrainIsNeverSeenByCommand :
    ∃ s w rest t, s.Inv ∧ s.sess = .drain ∧ s.accepted = w :: rest ∧ decode w ≠ .ok .nop ∧ step s = .next t ∧
      ¬ ByReset s t :=
  ⟨{ draining with accepted := [0x09000000] }, 0x09000000, [], finish { draining with accepted := [0x09000000] },
    inv_at_boundary (by decide) (by decide) rfl rfl (fun h => absurd h (by decide)) (fun _ => rfl) (by decide)
      (fun h => absurd h (by decide)), rfl, rfl, (by intro h; cases h), rfl, nofun⟩
theorem witness_ErrorEntry : t2Run.sess ≠ .error ∧ failed.sess = .error := by decide
/-- An error of the walker, and an error of a command (E2). -/
theorem witness_ErrorsArePrecise :
    (rootless.Inv ∧ step rootless = .next (raise .unwrittenNode 0 rootless) ∧ rootless.sess ≠ .error ∧
      (raise .unwrittenNode 0 rootless).sess = .error) ∧
    (∃ s t, s.Inv ∧ step s = .next t ∧ s.sess ≠ .error ∧ t.sess = .error ∧ t.errCode = 8) :=
  ⟨⟨rootless_inv, rfl, by decide, rfl⟩,
   ⟨{ t2 with accepted := [1] }, raise .illegalCmd 1 t2, { t2_inv with }, rfl, by decide, rfl, rfl⟩⟩
theorem witness_FirstErrorSticks : failed.sess = .error ∧ decode 0x0C000001#32 = .error (.reservedBit .abort) ∧
    pushCountOk 1 = true ∧ (0#4).toNat = 0 ∧ 10 < (11#4).toNat ∧ step failed = .next failed :=
  ⟨rfl, rfl, by decide, by decide, by decide, rfl⟩
/-- START, ABORT and reset. -/
theorem witness_ErrorIsLeftThreeWays :
    (step { failed with accepted := [0x09000000] } = .next (openSession failed) ∧ (openSession failed).sess ≠ .error) ∧
    (step { failed with accepted := [0x0C000000] } = .next (closeSession failed) ∧
      (closeSession failed).sess ≠ .error) ∧
    (step { failed with lowEdges := 1 } = .next (resetEdge { failed with lowEdges := 1 }) ∧
      (resetEdge { failed with lowEdges := 1 }).sess ≠ .error) ∧ failed.sess = .error :=
  ⟨⟨rfl, by decide⟩, ⟨rfl, by decide⟩, ⟨rfl, by decide⟩, rfl⟩
/-- The end of an empty session with IRQ_EN = 1 (S19), and an error of the walker with IRQ_EN = 1. -/
theorem witness_IrqRisesWithItsRecord :
    (∃ s t, s.Inv ∧ step s = .next t ∧ irq s = false ∧ irq t = true ∧ s.sess ≠ t.sess ∧ t.sess = .done) ∧
    (∃ s t, s.Inv ∧ step s = .next t ∧ irq s = false ∧ irq t = true ∧ s.sess ≠ t.sess ∧ t.sess = .error) :=
  ⟨⟨{ draining with cfg := ⟨2, 0, false, true⟩ }, finish { draining with cfg := ⟨2, 0, false, true⟩ },
      inv_at_boundary (by decide) (by decide) rfl rfl (fun h => absurd h (by decide)) (fun _ => rfl) (by decide)
        (fun h => absurd h (by decide)), rfl, by decide, by decide, by decide, rfl⟩,
   ⟨{ rootless with cfg := ⟨0, 0, false, true⟩ }, raise .unwrittenNode 0 { rootless with cfg := ⟨0, 0, false, true⟩ },
      inv_at_boundary (by decide) (by decide) rfl rfl (fun _ => rfl) (fun h => absurd h (by decide)) (by decide)
        (fun h => absurd h (by decide)), rfl, by decide, by decide, by decide, rfl⟩⟩

/-! ### Ports, reset and hazards -/

/-- T2 with a bit pending and OUTQ full, so that the walker stands still, with accepted words and an agenda. -/
def stalled (ws : List Word) (es : List HostEvent) : State :=
  { t2Bit with outq := List.replicate Config.outqDepth (.sym 0), accepted := ws, agenda := es }

theorem stalled_inv (ws : List Word) (es : List HostEvent) : (stalled ws es).Inv := { t2Bit_inv with }
theorem stalled_walker (ws : List Word) (es : List HostEvent) : walkerMove (stalled ws es) = none := by
  have h : walkerMove (stalled ws es) =
      if fits (stalled ws es) (emitSymbol 0x42 (consume 1 (stalled ws es))) then
        some (.next (emitSymbol 0x42 (consume 1 (stalled ws es)))) else none := rfl
  rw [h, if_neg (by simp [fits, emitSymbol, emit, consume, stalled])]
theorem stalled_effect {w : Word} {t : State} (move : portMove (stalled [w] []) = ifFits (stalled [] []) (.next t))
    (out : t.outq = (stalled [] []).outq) (bits : t.bitq.length ≤ 16) : step (stalled [w] []) = .next t := by
  have h : fits (stalled [] []) t = true := by
    simp [fits, out, Config.bitqDepth, Nat.le_trans bits (Nat.le_add_left 16 _)]
  exact (stepsTo_of_portMove rfl (by simp [move, ifFits, h]) (stalled_walker ..)).2.1 rfl rfl

theorem witness_StatusRegistersRead : 10 ≤ (10#4).toNat ∧ 10 ≤ (15#4).toNat ∧ t2Bit.bitq.length < 2 ^ 32 ∧
    failed.outq.length < 2 ^ 32 := by decide
/-- With nothing accepted; and with a SETNP that is accepted and held, behind a stalled walker. -/
theorem witness_StatusReadShowsAStateOnTheWay :
    (∃ s t, s.agenda = .statusRead 1 :: [] ∧ walkerMove s = none ∧ portMove s = none ∧ step s = .next t) ∧
    ((stalled [0x01000FFF] [.statusRead 1]).agenda = .statusRead 1 :: [] ∧
      walkerMove (stalled [0x01000FFF] [.statusRead 1]) = none ∧
      portMove (stalled [0x01000FFF] [.statusRead 1]) = none) :=
  ⟨⟨{ finished with agenda := [.statusRead 1] }, { finished with statData := 0x0001001B }, rfl, rfl, rfl, rfl⟩,
    rfl, stalled_walker .., rfl⟩
theorem witness_ResetValues : 2 ≤ (2#4).toNat ∧ 2 ≤ (15#4).toNat := by decide
/-- `rst_n` low with a record in OUTQ; and a reset of two edges that nothing stands before. -/
theorem witness_ResetEventRestoresReset :
    (rstN { finished with lowEdges := 1 } = false ∧ finished.outq ≠ []) ∧
    ∃ s : State, rstN s = true ∧ s.agenda = [] ++ .reset 1 :: [] ∧ walkerMove s = none ∧ portMove s = none ∧
      hostMove s = none ∧ ∃ t, step s = .next t ∧ t.agenda = [] :=
  ⟨by decide, { finished with agenda := [.reset 1] }, rfl, rfl, rfl, rfl, rfl, { finished with lowEdges := 2 }, rfl, rfl⟩
/-- A reset behind an accepted SETNP that waits for the walker, which is stalled, and a word at the port: both are lost. -/
theorem witness_ResetEventRestoresReset_overtakes :
    hostMove (stalled [0x01000FFF] [.command 0x02000000, .reset 0]) = none ∧
    portMove (stalled [0x01000FFF] [.command 0x02000000, .reset 0]) = none ∧
    walkerMove (stalled [0x01000FFF] [.command 0x02000000, .reset 0]) = none ∧
    step (stalled [0x01000FFF] [.command 0x02000000, .reset 0]) =
      .next { stalled [0x01000FFF] [] with lowEdges := 1 } ∧
    (resetEdge { stalled [0x01000FFF] [] with lowEdges := 1 }).accepted = [] :=
  ⟨rfl, rfl, stalled_walker .., (waits_of_no_move rfl rfl (stalled_walker ..)).2.2 0 [] rfl rfl, rfl⟩
/-- With a record to take, and with none; and a take while the walker is stalled, and while it runs. -/
theorem witness_OutPortTakesHead :
    (∃ s : State, s.agenda = .outReady :: [] ∧ rstN s = true ∧ walkerMove s = none ∧ portMove s = none ∧
      s.outq = .fin 0 :: []) ∧
    (∃ s : State, s.agenda = .outReady :: [] ∧ walkerMove s = none ∧ portMove s = none ∧ s.outq = []) ∧
    ((stalled [0x01000FFF] [.outReady]).agenda = .outReady :: [] ∧ walkerMove (stalled [0x01000FFF] [.outReady]) = none ∧
      portMove (stalled [0x01000FFF] [.outReady]) = none ∧ quiescent (stalled [0x01000FFF] [.outReady]) = false ∧
      ∃ rs, (stalled [0x01000FFF] [.outReady]).outq = .sym 0 :: rs) ∧
    (∃ s t : State, s.agenda = .outReady :: [] ∧ s.outq = [] ∧ step s = .next t ∧ quiescent s = false) :=
  ⟨⟨{ finished with agenda := [.outReady] }, rfl, rfl, rfl, rfl, rfl⟩, ⟨{ t2 with agenda := [.outReady] }, rfl, rfl, rfl, rfl⟩,
    ⟨rfl, stalled_walker .., rfl, rfl, List.replicate Config.outqSpare (.sym 0), rfl⟩,
    (step_of_both (s := { t2Bit with agenda := [.outReady] }) (h := t2Bit) rfl rfl rfl rfl rfl).elim
      (fun h => ⟨_, _, rfl, rfl, h, rfl⟩) (fun h => ⟨_, _, rfl, rfl, h, rfl⟩)⟩
/-- Idle; a walker step that fits; a stalled walker, with a held word; and both host and walker able to move. -/
theorem witness_IdleBlockWaits : (rstN finished = true ∧ finished.agenda = [] ∧ finished.accepted = [] ∧ quiescent finished = true) ∧
    (t2Bit.agenda = [] ∧ t2Bit.accepted = [] ∧
      walkerStep t2Bit = some (.next (emitSymbol 0x42 (consume 1 t2Bit))) ∧
      (emitSymbol 0x42 (consume 1 t2Bit)).outq.length ≤ Config.outqDepth) ∧
    (hostMove (stalled [0x01000FFF] [.reset 0]) = none ∧ portMove (stalled [0x01000FFF] [.reset 0]) = none ∧
      walkerStep (stalled [0x01000FFF] [.reset 0]) =
        some (.next (emitSymbol 0x42 (consume 1 (stalled [0x01000FFF] [.reset 0])))) ∧
      ¬ ((emitSymbol 0x42 (consume 1 (stalled [0x01000FFF] [.reset 0]))).outq.length ≤
          (stalled [0x01000FFF] [.reset 0]).outq.length ∨
        (emitSymbol 0x42 (consume 1 (stalled [0x01000FFF] [.reset 0]))).outq.length ≤ Config.outqDepth)) ∧
    (∃ s h u : State, rstN s = true ∧ hostMove s = some (.next h) ∧ s.accepted = [] ∧ walkerStep s = some (.next u) ∧
      u.outq.length ≤ Config.outqDepth ∧ afterReset s.agenda = none) :=
  ⟨⟨rfl, rfl, rfl, rfl⟩, ⟨rfl, rfl, rfl, Nat.le_add_left 1 _⟩,
    ⟨rfl, rfl, rfl, by simp [emitSymbol, emit, consume, stalled]⟩,
    ⟨{ t2Bit with agenda := [.outReady] }, t2Bit, emitSymbol 0x42 (consume 1 { t2Bit with agenda := [.outReady] }), rfl,
      rfl, rfl, rfl, Nat.le_add_left 1 _, rfl⟩⟩
/-- A command that fits, and an illegal word. -/
theorem witness_StepRunsDecodedCommand :
    (∃ s t : State, s.accepted = 0x01000FFF :: [] ∧ s.agenda = [] ∧ quiescent s = true ∧
      (∃ i, decode 0x01000FFF = .ok i ∧ exec i { s with accepted := [] } = .next t) ∧
      t.outq.length ≤ s.outq.length ∧ t.bitq.length ≤ s.bitq.length) ∧
    (∃ s : State, s.accepted = 1 :: [] ∧ s.agenda = [] ∧ quiescent s = true ∧ ∃ why, decode 1 = .error why) :=
  ⟨⟨{ t2 with accepted := [0x01000FFF] }, { t2 with np := 4095 }, rfl, rfl, rfl, ⟨.setnp 4095, rfl, rfl⟩,
      by decide, by decide⟩,
   ⟨{ t2 with accepted := [1] }, rfl, rfl, rfl, .reservedBit .nop, rfl⟩⟩
/-- A command that does not fit: an error with OUTQ full (log 7). -/
theorem witness_StepRunsDecodedCommand_waits :
    ∃ s t : State, s.accepted = 1 :: [] ∧ s.agenda = [] ∧ quiescent s = true ∧
      t = raise .illegalCmd 1 { s with accepted := [] } ∧
      ¬ (t.outq.length ≤ s.outq.length ∨ t.outq.length ≤ Config.outqDepth) :=
  ⟨{ t2 with accepted := [1], outq := List.replicate Config.outqDepth (.sym 0) }, _, rfl, rfl, rfl, rfl, by
    simp [raise, emit, t2, State.reset, Block.reset]⟩
/-- A word offered that could take effect at once, and its acceptance. -/
theorem witness_StepRunsDecodedCommand_accepts : ∃ s t : State, s.agenda = .command 0x01000FFF :: [] ∧ s.accepted = [] ∧
    quiescent s = true ∧ execute 0x01000FFF s = .next t ∧ t.outq.length ≤ s.outq.length ∧
    t.bitq.length ≤ s.bitq.length ∧ rstN s = true ∧ s.readyIn = 0 ∧
    step s = .next { s with agenda := [], accepted := [0x01000FFF] } :=
  ⟨{ t2 with agenda := [.command 0x01000FFF] }, { t2 with agenda := [.command 0x01000FFF], np := 4095 }, rfl, rfl, rfl,
    rfl, by decide, by decide, rfl, rfl, rfl⟩
/-- The same with one cycle left after a reset, in which the word is not accepted. -/
theorem witness_StepRunsDecodedCommand_unready : ∃ s t : State, s.agenda = .command 0x01000FFF :: [] ∧ s.accepted = [] ∧
    quiescent s = true ∧ execute 0x01000FFF s = .next t ∧ t.outq.length ≤ s.outq.length ∧
    t.bitq.length ≤ s.bitq.length ∧ rstN s = true ∧ s.readyIn = 0 + 1 ∧ step s = .next { s with readyIn := 0 } :=
  ⟨{ t2 with agenda := [.command 0x01000FFF], readyIn := 1 }, _, rfl, rfl, rfl, rfl, by decide, by decide, rfl, rfl, rfl⟩
/-- START at quiescence. -/
theorem witness_HoldRule : ∃ s t, s.Inv ∧ s.accepted = 0x09000000 :: [] ∧ step s = .next t ∧ ¬ ByReset s t ∧
    t.accepted = [] :=
  ⟨{ t2 with accepted := [0x09000000] }, t2Run, { t2_inv with }, rfl, rfl, nofun, rfl⟩
/-- A SETNP that holds the port, behind a NOP. -/
theorem witness_HoldRule_holds : 0x01000FFF ∈ (stalled [0, 0x01000FFF] []).accepted ∧
    quiescent (stalled [0, 0x01000FFF] []) = false ∧
    ¬ (decode 0x01000FFF = .ok .nop ∨ ((stalled [0, 0x01000FFF] []).sess = .run ∧
      ((∃ c d, decode 0x01000FFF = .ok (.pushb c d)) ∨ decode 0x01000FFF = .ok .eos))) :=
  ⟨by decide, rfl, by rintro (h | ⟨_, ⟨_, _, h⟩ | h⟩) <;> cases h⟩
/-- NOP, PUSHB and EOS with the walker not quiescent. -/
theorem witness_HoldRule_overlap : quiescent (stalled [0] []) = false ∧
    step (stalled [0] []) = .next (stalled [] []) ∧
    step (stalled [0x0A010000] []) = .next (pushBits [false] (stalled [] [])) ∧
    step (stalled [0x0B000000] []) = .next (markEos (stalled [] [])) :=
  ⟨rfl, stalled_effect rfl rfl (by decide), stalled_effect rfl rfl (by decide), stalled_effect rfl rfl (by decide)⟩
theorem witness_TablesFixedInSession :
    step t2Bit = .next (emitSymbol 0x42 (consume 1 t2Bit)) ∧ active t2Bit ∧ ¬ ByReset t2Bit (emitSymbol 0x42 (consume 1 t2Bit)) :=
  ⟨rfl, .inl rfl, nofun⟩
theorem witness_OutputStreamOnlyGrows :
    step t2Bit = .next (emitSymbol 0x42 (consume 1 t2Bit)) ∧ ¬ ByReset t2Bit (emitSymbol 0x42 (consume 1 t2Bit)) :=
  ⟨rfl, nofun⟩
/-- T2 with both queues full, a PUSHB accepted and another at the port. -/
def full : State :=
  { t2Run with accepted := [encode (.pushb 1 0)], agenda := [.command (encode (.pushb 1 0)), .outReady],
               bitq := List.replicate Config.bitqDepth false, outq := List.replicate Config.outqDepth (.sym 0) }

/-- The hang, and the same with a reset to come. -/
theorem witness_HostMustDrainOut_reset : afterReset full.agenda = none ∧
    afterReset ({ full with agenda := full.agenda ++ [.reset 0] } : State).agenda = some (0, []) := ⟨rfl, rfl⟩
theorem witness_HostMustDrainOut : pushCountOk 1 = true ∧ full.accepted = encode (.pushb 1 0) :: [] ∧
    full.agenda = .command (encode (.pushb 1 0)) :: [.outReady] ∧
    walkerStep full = some (.next (emitSymbol 0x41 (consume 1 full))) ∧
    full.outq.length < (emitSymbol 0x41 (consume 1 full)).outq.length ∧ Config.outqDepth ≤ full.outq.length ∧
    Config.bitqDepth < full.bitq.length + (1#5).toNat :=
  ⟨by decide, rfl, rfl, rfl, by simp [emitSymbol, emit, consume], by simp [full], by simp [full]⟩

/-! ### Invariants and headlines -/

theorem witness_StepKeepsInvariant : t2Bit.Inv ∧ draining.Inv ∧ rootless.Inv := ⟨t2Bit_inv, draining_inv, rootless_inv⟩
theorem witness_QueuesStayWithinCapacity :
    QueuesBounded State.reset ∧ step State.reset = .next State.reset := ⟨⟨Nat.zero_le _, Nat.zero_le _⟩, rfl⟩
theorem witness_StepMatchesLoop : t2Bit.Inv ∧ step t2Bit = .next (emitSymbol 0x42 (consume 1 t2Bit)) ∧
    ¬ ByReset t2Bit (emitSymbol 0x42 (consume 1 t2Bit)) := ⟨t2Bit_inv, rfl, nofun⟩
/-- The command case of the same statement. -/
theorem witness_StepMatchesLoop_command :
    ∃ s t, s.Inv ∧ step s = .next t ∧ ¬ ByReset s t ∧ s.accepted = 0x09000000 :: t.accepted ∧
      t.agenda = s.agenda :=
  ⟨{ t2 with accepted := [0x09000000] }, t2Run, { t2_inv with }, rfl, nofun, rfl, rfl⟩
/-- Two ways to cut the bits 0, 1, 1, 0. -/
theorem witness_ChunkingIndependence : t2.Inv ∧ t2.sess ≠ .run ∧ t2.sess ≠ .drain ∧
    allFeed [.pushb 4 0b0110] = true ∧ allFeed [.pushb 1 0, .nop, .pushb 3 0b110] = true ∧
    carriedBits [.pushb 4 0b0110] = carriedBits [.pushb 1 0, .nop, .pushb 3 0b110] :=
  ⟨t2_inv, by decide, by decide, by decide, by decide, by decide⟩

/-- The nodes of T2 that can be reached from its root. -/
theorem t2_descend {p : List Bool} {i : NodeIdx} (h : descend t2 2 p = some i) :
    (p = [] ∧ i = 2) ∨ (p = [false] ∧ i = 0) ∨ (p = [true] ∧ i = 1) := by
  match p with
  | [] => exact .inl ⟨rfl, (Option.some.inj h).symm⟩
  | [false] => exact .inr (.inl ⟨rfl, (Option.some.inj h).symm⟩)
  | [true] => exact .inr (.inr ⟨rfl, (Option.some.inj h).symm⟩)
  | false :: c :: r => exact absurd h (by change (none : Option NodeIdx) ≠ _; exact nofun)
  | true :: c :: r => exact absurd h (by change (none : Option NodeIdx) ≠ _; exact nofun)

theorem t2_wellFormed : WellFormedImage t2 2 where
  written p i h := by rcases t2_descend h with ⟨_, rfl⟩ | ⟨_, rfl⟩ | ⟨_, rfl⟩ <;> decide
  noSharing p q i hp hq := by
    rcases t2_descend hp with ⟨rfl, rfl⟩ | ⟨rfl, rfl⟩ | ⟨rfl, rfl⟩ <;>
      rcases t2_descend hq with ⟨rfl, h⟩ | ⟨rfl, h⟩ | ⟨rfl, h⟩ <;> first | rfl | exact absurd h (by decide)
  distinct p q sym hp hq := by
    obtain ⟨i, hi, hl⟩ := hp
    obtain ⟨j, hj, hm⟩ := hq
    rcases t2_descend hi with ⟨rfl, rfl⟩ | ⟨rfl, rfl⟩ | ⟨rfl, rfl⟩ <;>
      rcases t2_descend hj with ⟨rfl, rfl⟩ | ⟨rfl, rfl⟩ | ⟨rfl, rfl⟩ <;>
      first | rfl | exact absurd (hl.trans hm.symm) (by decide)

/-- The LUT does not matter to the image. -/
theorem t2Lut_descend (p : List Bool) (i : NodeIdx) : descend t2Lut i p = descend t2 i p := by
  induction p generalizing i with
  | nil => rfl
  | cons b bs ih => simp only [descend, ih]; rfl

theorem t2Lut_wellFormed : WellFormedImage t2Lut 2 where
  written p i h := t2_wellFormed.written p i (t2Lut_descend p 2 ▸ h)
  noSharing p q i hp hq := t2_wellFormed.noSharing p q i (t2Lut_descend p 2 ▸ hp) (t2Lut_descend q 2 ▸ hq)
  distinct p q sym hp hq := by
    obtain ⟨i, hi, hl⟩ := hp
    obtain ⟨j, hj, hm⟩ := hq
    exact t2_wellFormed.distinct p q sym ⟨i, t2Lut_descend p 2 ▸ hi, hl⟩ ⟨j, t2Lut_descend q 2 ▸ hj, hm⟩

theorem t2Lut_consistent : ConsistentLut t2Lut 2 1 where
  leafHit bits len i sym hb hl hd hn := by
    rw [t2Lut_descend] at hd
    obtain ⟨b, rfl⟩ := List.length_eq_one_iff.mp hb
    rcases t2_descend hd with ⟨_, rfl⟩ | ⟨hp, rfl⟩ | ⟨hp, rfl⟩
    · exact absurd hn (by simp [nodeRead, tableRead, t2Lut, t2])
    all_goals
      obtain rfl : len = 1 := by
        rcases Nat.le_one_iff_eq_zero_or_eq_one.mp hl with rfl | rfl
        · simp at hp
        · rfl
      obtain rfl := (List.cons.inj hp).1
      left
      have hs : nodeRead _ t2Lut = some (Node.leaf sym) := hn
      simp [nodeRead, tableRead, t2Lut, t2] at hs
      subst hs
      rfl
  nodeHit bits i left right hb hd hn := by
    rw [t2Lut_descend] at hd
    obtain ⟨b, rfl⟩ := List.length_eq_one_iff.mp hb
    rcases t2_descend hd with ⟨hp, rfl⟩ | ⟨_, rfl⟩ | ⟨_, rfl⟩
    · exact absurd hp (by simp)
    all_goals exact absurd hn (by simp [nodeRead, tableRead, t2Lut, t2])

/-- The sequence A, B on T2: in serial mode, and with the LUT. -/
theorem witness_RoundTrip :
    (t2.Inv ∧ t2.sess ≠ .run ∧ t2.sess ≠ .drain ∧ WellFormedImage t2 t2.cfg.root ∧
      nodeRead t2.cfg.root t2 = some (.internal 0 1) ∧ t2.cfg.lutEn = false ∧
      (∀ p ∈ [([false], (0x41 : Symbol)), ([true], 0x42)], IsCodeword t2 t2.cfg.root p.1 p.2) ∧
      allFeed [.pushb 2 0b01] = true ∧
      carriedBits [.pushb 2 0b01] = [([false], (0x41 : Symbol)), ([true], 0x42)].flatMap Prod.fst) ∧
    (t2Lut.Inv ∧ WellFormedImage t2Lut t2Lut.cfg.root ∧ t2Lut.cfg.lutEn = true ∧
      ConsistentLut t2Lut t2Lut.cfg.root t2Lut.cfg.k.toNat) :=
  ⟨⟨t2_inv, by decide, by decide, t2_wellFormed, rfl, rfl, by
      intro p hp
      rcases List.mem_pair.mp hp with rfl | rfl
      · exact ⟨0, rfl, rfl⟩
      · exact ⟨1, rfl, rfl⟩, by decide, by decide⟩,
   t2Lut_inv, t2Lut_wellFormed, rfl, t2Lut_consistent⟩
theorem witness_LutModeEqualsSerialMode :
    t2Lut.Inv ∧ t2Lut.sess ≠ .run ∧ t2Lut.sess ≠ .drain ∧ t2Lut.cfg.lutEn = true ∧
    WellFormedImage t2Lut t2Lut.cfg.root ∧ nodeRead t2Lut.cfg.root t2Lut = some (.internal 0 1) ∧
    ConsistentLut t2Lut t2Lut.cfg.root t2Lut.cfg.k.toNat ∧ allFeed [.pushb 16 0xAFD8, .nop] = true :=
  ⟨t2Lut_inv, by decide, by decide, rfl, t2Lut_wellFormed, rfl, t2Lut_consistent, by decide⟩

/-- The one-leaf image D1 in IDLE. -/
def d1 : State := { State.reset with nodes := [(0, .leaf 0x61)] }

theorem witness_DegenerateRoundTrip : d1.sess ≠ .run ∧ d1.sess ≠ .drain ∧
    nodeRead d1.cfg.root d1 = some (.leaf 0x61) ∧ allFeed [.pushb 5 0b10101] = true := by decide
theorem witness_CodewordsAreShort : WellFormedImage t2 2 ∧ IsCodeword t2 2 [true] 0x42 :=
  ⟨t2_wellFormed, 1, rfl, rfl⟩
theorem witness_PushsCarriesItsBits : 0 < (pushs [false, true, true, false]).length := by decide
theorem witness_WllrepFillsEntries : (1 ≤ (1#4).toNat ∧ (1#4).toNat ≤ 3 ∧ 3 ≤ 10) ∧
    (1 ≤ (10#4).toNat ∧ (10#4).toNat ≤ 10) ∧ t2.sess ≠ .run ∧ t2.sess ≠ .drain ∧
    (∀ j, j < 2 ^ (3 - 1) → (4 : LutIdx) ≠ t2.lp + BitVec.ofNat 10 j) := by decide

end Sys2Proof.Tests
end

/-! ## Codewords of a well-formed image (R9, R174)

A codeword of n bits passes through n internal nodes, each with two children. So the n + 1 nodes on its path and the n
nodes beside it are all reachable, and R174 gives them 2n + 1 distinct entries among the 4096 of the node memory. -/
namespace Sys2Proof.Machine

@[simp] theorem descend_nil (s : State) (i : NodeIdx) : descend s i [] = some i := rfl

theorem descend_cons_of_internal {s : State} {i left right : NodeIdx}
    (h : nodeRead i s = some (.internal left right)) (b : Bool) (bs : List Bool) :
    descend s i (b :: bs) = descend s (if b then right else left) bs := by simp only [descend, h]

/-- A nonempty path starts at an internal node. -/
theorem internal_of_descend_cons {s : State} {i j : NodeIdx} {b : Bool} {bs : List Bool}
    (h : descend s i (b :: bs) = some j) : ∃ left right, nodeRead i s = some (.internal left right) := by
  match hi : nodeRead i s with
  | some (.internal left right) => exact ⟨left, right, rfl⟩
  | some (.leaf _) | none => simp [descend, hi] at h

/-- The paths to the nodes on a path and to the siblings beside it. -/
def pathsAlong : List Bool → List (List Bool)
  | [] => [[]]
  | b :: bs => [] :: [!b] :: (pathsAlong bs).map (b :: ·)

theorem length_pathsAlong (bits : List Bool) : (pathsAlong bits).length = 2 * bits.length + 1 := by
  induction bits with
  | nil => rfl
  | cons b bs ih => simp only [pathsAlong, List.length_cons, List.length_map, ih]; omega

theorem nodup_pathsAlong (bits : List Bool) : (pathsAlong bits).Nodup := by
  induction bits with
  | nil => exact List.nodup_singleton _
  | cons b bs ih =>
    have hmap : ((pathsAlong bs).map (b :: ·)).Nodup := ih.map List.cons_injective
    simp [pathsAlong, hmap]

/-- Both children of every node on a path are reachable with it. -/
theorem exists_descend_of_mem_pathsAlong {s : State} {i j : NodeIdx} {bits p : List Bool}
    (h : descend s i bits = some j) (hp : p ∈ pathsAlong bits) : ∃ k, descend s i p = some k := by
  induction bits generalizing i p with
  | nil => exact ⟨i, by rw [List.mem_singleton.mp hp, descend_nil]⟩
  | cons b bs ih =>
    obtain ⟨left, right, hi⟩ := internal_of_descend_cons h
    rw [descend_cons_of_internal hi] at h
    simp only [pathsAlong, List.mem_cons, List.mem_map] at hp
    obtain rfl | rfl | ⟨q, hq, rfl⟩ := hp
    · exact ⟨i, descend_nil s i⟩
    · exact ⟨_, by rw [descend_cons_of_internal hi, descend_nil]⟩
    · rw [descend_cons_of_internal hi]
      exact ih h hq

/-- Distinct reachable paths of a well-formed image are no more than the entries of the node memory. -/
theorem WellFormedImage.length_paths_le {s : State} {root : NodeIdx} (hw : WellFormedImage s root)
    {paths : List (List Bool)} (hnd : paths.Nodup) (hreach : ∀ p ∈ paths, ∃ i, descend s root p = some i) :
    paths.length ≤ Config.nodeN := by
  choose! node hnode using hreach
  have hinj : (paths.map (fun p => (node p).toFin)).Nodup := by
    refine hnd.map_on fun p hp q hq he => ?_
    have hpq : node p = node q := BitVec.toFin_inj.mp he
    exact hw.noSharing p q (node q) (hpq ▸ hnode p hp) (hnode q hq)
  simpa [Config.nodeN] using hinj.length_le_card

/-- Settles O58: the paths along a codeword of n bits are 2n + 1, and a well-formed image has room for 4096 (R9). -/
theorem codewordsAreShort : Obligations.CodewordsAreShort := by
  unfold Obligations.CodewordsAreShort
  intro s root bits sym hw ⟨i, hi, _⟩
  have hle : (pathsAlong bits).length ≤ Config.nodeN :=
    hw.length_paths_le (nodup_pathsAlong bits) fun _ hp => exists_descend_of_mem_pathsAlong hi hp
  rw [length_pathsAlong] at hle
  unfold Config.nodeN at hle
  omega

end Sys2Proof.Machine

/-! ## What a command can do, said once (R21, R140)

The counterpart of `WalkerEffect` for the 13 commands: a command that answers a next state has one of these effects, and
the session states it can have it in are those of R140. The frame of the commands and their invariants follow from it. -/
namespace Sys2Proof.Machine

/-- The command writes a node entry (R121, R122). -/
def WritesNode (i : Instr) : Prop := (∃ l r, i = .wni l r) ∨ ∃ a, i = .wnl a

/-- The command writes a LUT entry (R131 to R133). -/
def WritesLut (i : Instr) : Prop := (∃ a n, i = .wll a n) ∨ (∃ n, i = .wln n) ∨ i = .wlx

/-- The effects a command can have (R120 to R146). -/
inductive CommandEffect (i : Instr) (s : State) : State → Prop where
  /-- A NOP, or a discard in ERROR (R146, R212). -/
  | nothing (is : i = .nop ∨ s.sess = .error) : CommandEffect i s s
  /-- Error entry with the command's word (R210, R211). -/
  | error (e : ErrName) (commands : 8 ≤ e.code.toNat) (alive : s.sess ≠ .error) :
      CommandEffect i s (raise e (encode i) s)
  /-- The command meets DRAIN and goes on waiting (R162, log 8). -/
  | held (drain : s.sess = .drain) : CommandEffect i s { s with accepted := encode i :: s.accepted }
  /-- SETNP (R120). -/
  | setnp (a : NodeIdx) (is : i = .setnp a) (closed : ¬ active s) : CommandEffect i s { s with np := a }
  /-- WNI or WNL (R121, R122). -/
  | writeNode (e : Node) (is : WritesNode i) (closed : ¬ active s) : CommandEffect i s (writeNodeAtNp e s)
  /-- SETLP (R130). -/
  | setlp (a : LutIdx) (is : i = .setlp a) (closed : ¬ active s) : CommandEffect i s { s with lp := a }
  /-- WLL, WLN or WLX (R131 to R133). -/
  | writeLut (e : LutEntry) (is : WritesLut i) (closed : ¬ active s) : CommandEffect i s (writeLutAtLp e s)
  /-- CFG with a legal K (R141). -/
  | cfg (root : NodeIdx) (k : BitVec 4) (lutEn irqEn : Bool) (is : i = .cfg root k lutEn irqEn) (closed : ¬ active s)
      (legal : cfgLegal k lutEn = true) : CommandEffect i s { s with cfg := ⟨root, k, lutEn, irqEn⟩ }
  /-- START (R142). -/
  | start (is : i = .start) (closed : ¬ active s) : CommandEffect i s (openSession s)
  /-- PUSHB (R143). -/
  | pushb (cnt : BitVec 5) (data : BitVec 16) (is : i = .pushb cnt data) (run : s.sess = .run) :
      CommandEffect i s (pushBits (streamBits cnt.toNat data) s)
  /-- EOS (R144). -/
  | eos (is : i = .eos) (run : s.sess = .run) : CommandEffect i s (markEos s)
  /-- ABORT (R145). -/
  | abort (is : i = .abort) (running : s.sess ≠ .drain) : CommandEffect i s (closeSession s)

/-- Error entry in ERROR is a discard (R212). -/
theorem raise_of_error {e : ErrName} {info : Word} {s : State} (h : s.sess = .error) : raise e info s = s := by
  simp [raise, h]

/-- Error entry is one of the effects, in ERROR too. -/
theorem CommandEffect.raise (i : Instr) (s : State) {e : ErrName} (commands : 8 ≤ e.code.toNat) :
    CommandEffect i s (raise e (encode i) s) := by
  by_cases h : s.sess = .error
  · rw [raise_of_error h]; exact .nothing (.inr h)
  · exact .error e commands h

/-- A command is held only in DRAIN (R162). -/
theorem drain_of_held {c : CommandClass} {sess : Sess} (h : checkState c sess = .held) : sess = .drain := by
  cases c <;> cases sess <;> simp_all [checkState]

/-- No command passes in DRAIN (R162). -/
theorem not_drain_of_passes {c : CommandClass} {sess : Sess} (h : checkState c sess = .passes) : sess ≠ .drain := by
  rintro rfl; cases c <;> simp [checkState] at h

/-- A command is discarded only in ERROR (R212). -/
theorem error_of_discarded {c : CommandClass} {sess : Sess} (h : checkState c sess = .discarded) : sess = .error := by
  cases c <;> cases sess <;> simp_all [checkState]

/-- A command of the table class passes only outside a session (R140). -/
theorem not_active_of_outside {s : State} (h : checkState .outsideSession s.sess = .passes) : ¬ active s := by
  rintro (hs | hs) <;> simp [hs, checkState] at h

/-- A command of the session class passes only in RUN (R140). -/
theorem run_of_inside {sess : Sess} (h : checkState .insideSession sess = .passes) : sess = .run := by
  cases sess <;> simp_all [checkState]

/-- Behind the state check a command has one of the effects if its body has (R140). -/
theorem checked_effect {c : CommandClass} {i : Instr} {body : State → State} {s t : State}
    (h : checked c i body s = .next t) (hbody : checkState c s.sess = .passes → CommandEffect i s (body s)) :
    CommandEffect i s t := by
  obtain ⟨hc, he⟩ | ⟨-, he⟩ | ⟨hc, he⟩ | ⟨hc, he⟩ := checked_eq c i body s <;>
    obtain rfl := Host.Outcome.next.inj (he.symm.trans h)
  · exact hbody hc
  · exact .raise i s (by decide)
  · exact .nothing (.inr (error_of_discarded hc))
  · exact .held (drain_of_held hc)

/-- Everything a command can do, when it answers a next state. -/
theorem exec_effect {i : Instr} {s t : State} (h : exec i s = .next t) : CommandEffect i s t := by
  cases i with
  | nop => obtain rfl := Host.Outcome.next.inj h; exact .nothing (.inl rfl)
  | setnp a => exact checked_effect (body := fun s => { s with np := a }) h fun hc => .setnp a rfl (not_active_of_outside hc)
  | wni l r => exact checked_effect h fun hc => .writeNode _ (.inl ⟨l, r, rfl⟩) (not_active_of_outside hc)
  | wnl a => exact checked_effect h fun hc => .writeNode _ (.inr ⟨a, rfl⟩) (not_active_of_outside hc)
  | setlp a => exact checked_effect (body := fun s => { s with lp := a }) h fun hc => .setlp a rfl (not_active_of_outside hc)
  | wll a n => exact checked_effect h fun hc => .writeLut _ (.inl ⟨a, n, rfl⟩) (not_active_of_outside hc)
  | wln n => exact checked_effect h fun hc => .writeLut _ (.inr (.inl ⟨n, rfl⟩)) (not_active_of_outside hc)
  | wlx => exact checked_effect h fun hc => .writeLut _ (.inr (.inr rfl)) (not_active_of_outside hc)
  | cfg r k l q =>
    rw [exec, execCfg] at h
    refine checked_effect h fun hc => ?_
    split
    · exact .cfg r k l q rfl (not_active_of_outside hc) ‹_›
    · exact .raise _ s (by decide)
  | start => exact checked_effect h fun hc => .start rfl (not_active_of_outside hc)
  | pushb c d =>
    rw [exec, execPushb] at h
    split at h
    · exact checked_effect h fun hc => .pushb c d rfl (run_of_inside hc)
    · obtain rfl := Host.Outcome.next.inj h; exact .raise _ s (by decide)
  | eos => exact checked_effect h fun hc => .eos rfl (run_of_inside hc)
  | abort => exact checked_effect h fun hc => .abort rfl (not_drain_of_passes hc)

/-- A command word has an effect of the command it decodes to, or it is illegal and error entry follows (R97, R207). -/
theorem execute_effect {w : Word} {s t : State} (h : execute w s = .next t) :
    (∃ i, decode w = .ok i ∧ CommandEffect i s t) ∨ t = raise .illegalCmd w s := by
  unfold execute at h
  split at h
  · exact .inl ⟨_, ‹_›, exec_effect h⟩
  · exact .inr (Host.Outcome.next.inj h).symm

/-- A node read depends on the node memory alone. -/
theorem nodeRead_congr {s t : State} (h : t.nodes = s.nodes) (k : NodeIdx) : nodeRead k t = nodeRead k s := by
  simp only [nodeRead, h]

/-- A LUT read depends on the LUT alone. -/
theorem lutRead_congr {s t : State} (h : t.lut = s.lut) (k : LutIdx) : lutRead k t = lutRead k s := by
  simp only [lutRead, h]

/-- A node write replaces the entry at NP and no other (R62). -/
theorem nodeRead_writeNodeAtNp (k : NodeIdx) (e : Node) (s : State) :
    nodeRead k (writeNodeAtNp e s) = if k = s.np then some e else nodeRead k s := by
  simp [nodeRead, tableRead_tableWrite, BitVec.toNat_inj]

/-- A LUT write replaces the entry at LP and no other (R66). -/
theorem lutRead_writeLutAtLp (k : LutIdx) (e : LutEntry) (s : State) :
    lutRead k (writeLutAtLp e s) = if k = s.lp then some e else lutRead k s := by
  simp [lutRead, tableRead_tableWrite, BitVec.toNat_inj]

/-- Only WNI and WNL change a node entry, and only the one at NP. -/
theorem CommandEffect.nodeRead {i : Instr} {s t : State} (h : CommandEffect i s t) (k : NodeIdx) :
    nodeRead k t = nodeRead k s ∨ (k = s.np ∧ WritesNode i) := by
  cases h
  case writeNode e is _ =>
    rw [nodeRead_writeNodeAtNp]
    by_cases hk : k = s.np
    · exact .inr ⟨hk, is⟩
    · exact .inl (if_neg hk)
  case error => exact .inl (nodeRead_congr (raise_nodes ..) k)
  all_goals exact .inl rfl

/-- Only WLL, WLN and WLX change a LUT entry, and only the one at LP. -/
theorem CommandEffect.lutRead {i : Instr} {s t : State} (h : CommandEffect i s t) (k : LutIdx) :
    lutRead k t = lutRead k s ∨ (k = s.lp ∧ WritesLut i) := by
  cases h
  case writeLut e is _ =>
    rw [lutRead_writeLutAtLp]
    by_cases hk : k = s.lp
    · exact .inr ⟨hk, is⟩
    · exact .inl (if_neg hk)
  case error => exact .inl (lutRead_congr (raise_lut ..) k)
  all_goals exact .inl rfl

/-- Settles O20, from the effects of the commands: each names the fields it changes. -/
theorem commandFrame : Obligations.CommandFrame := by
  unfold Obligations.CommandFrame
  intro i s t h
  have effect : CommandEffect i s t := exec_effect h
  refine ⟨effect.nodeRead, effect.lutRead, ?_⟩
  cases effect with
  | nothing _ => simp
  | error e _ alive => simp [alive]
  | held drain => simp [drain]
  | setnp a is _ => simp [is]
  | writeNode e is _ => obtain ⟨l, r, rfl⟩ | ⟨a, rfl⟩ := is <;> simp
  | setlp a is _ => simp [is]
  | writeLut e is _ => obtain ⟨a, n, rfl⟩ | ⟨n, rfl⟩ | rfl := is <;> simp
  | cfg r k l q is _ _ => simp [is]
  | start is _ => simp [is]
  | pushb c d is _ => simp [is]
  | eos is _ => simp [is]
  | abort is _ => simp [is]

end Sys2Proof.Machine

/-! ## The machine's invariant (R22, R25, R29, R32, R35)

Each named operation keeps the invariant; so does every effect of a command and of the walker, and so does every move. -/
namespace Sys2Proof.Machine

/-- The invariant reads nine fields of the block, and a state that agrees on them meets it too. -/
theorem State.Inv.congr {s t : State} (h : s.Inv) (nodes : t.nodes = s.nodes := by rfl) (lut : t.lut = s.lut := by rfl)
    (cfg : t.cfg = s.cfg := by rfl) (sess : t.sess = s.sess := by rfl) (eosSeen : t.eosSeen = s.eosSeen := by rfl)
    (errCode : t.errCode = s.errCode := by rfl) (cur : t.cur = s.cur := by rfl) (depth : t.depth = s.depth := by rfl)
    (bitq : t.bitq = s.bitq := by rfl) : t.Inv := by
  obtain ⟨memory, legal, atRoot, inside, eosInRun, eosInDrain, bound, recorded, named, settled⟩ := h
  constructor <;> simp only [Memory.wf, active, nodeRead, nodes, lut, cfg, sess, eosSeen, errCode, cur, depth, bitq] <;>
    assumption

/-- The invariant speaks of the block alone. -/
theorem State.Inv.of_block {s t : State} (h : s.Inv) (eq : t.toBlock = s.toBlock) : t.Inv := by
  obtain ⟨b, o⟩ := s
  obtain ⟨b', o'⟩ := t
  obtain rfl : b' = b := eq
  exact h.congr

/-- A block at its reset values meets the invariant (R241). -/
theorem reset_inv {s : State} (h : s.toBlock = Block.reset) : s.Inv := by
  suffices reset : State.reset.Inv from reset.of_block h
  have idle : ¬ active State.reset := by simp [active, State.reset, Block.reset]
  exact { memory := reset_wf, cfgLegal := rfl, atRoot := fun h => absurd h idle, inside := fun h => absurd h idle,
          eosInRun := nofun, eosInDrain := nofun, depthBound := by decide, errorRecorded := by decide, errorNamed := nofun,
          settled := fun _ => ⟨rfl, rfl⟩ }

/-- Error code 0 is no code of R200 (R29). -/
theorem ErrName.code_ne_zero (e : ErrName) : e.code ≠ 0 := by cases e <;> decide

/-- Outside ERROR no error is recorded (R29). -/
theorem State.Inv.errCode_eq_zero {s : State} (h : s.Inv) (alive : s.sess ≠ .error) : s.errCode = 0 :=
  Decidable.not_not.mp fun hne => alive (h.errorRecorded.mpr hne)

/-! ### The operations -/

/-- Error entry records a code of R200 and leaves the session (R210). -/
theorem State.Inv.raise {s : State} (h : s.Inv) (e : ErrName) (info : Word) : (raise e info s).Inv := by
  by_cases hs : s.sess = .error
  · rwa [raise_of_error hs]
  · exact { memory := wf_of_tables_eq (raise_nodes ..) (raise_lut ..) h.memory
            cfgLegal := by simpa using h.cfgLegal
            atRoot := by simp [active]
            inside := by simp [active]
            eosInRun := by simp
            eosInDrain := by simp
            depthBound := by simpa using h.depthBound
            errorRecorded := by simpa [hs] using e.code_ne_zero
            errorNamed := fun _ => ⟨e, by simp [hs]⟩
            settled := by simp }

/-- START puts the walker at the root, at a boundary (R142). -/
theorem State.Inv.openSession {s : State} (h : s.Inv) : (openSession s).Inv where
  memory := h.memory
  cfgLegal := h.cfgLegal
  atRoot _ _ := rfl
  inside _ hd := absurd rfl hd
  eosInRun _ := rfl
  eosInDrain := by simp
  depthBound := by simp
  errorRecorded := by simp
  errorNamed := by simp
  settled := by simp

/-- ABORT leaves no bits pending and no codeword in progress (R145). -/
theorem State.Inv.closeSession {s : State} (h : s.Inv) : (closeSession s).Inv where
  memory := h.memory
  cfgLegal := h.cfgLegal
  atRoot _ _ := rfl
  inside _ hd := absurd rfl hd
  eosInRun := by simp
  eosInDrain := by simp
  depthBound := by simp
  errorRecorded := by simp
  errorNamed := by simp
  settled _ := ⟨rfl, rfl⟩

/-- EOS takes RUN to DRAIN with EOS_SEEN; the walker stays where it is (R144). -/
theorem State.Inv.markEos {s : State} (h : s.Inv) (run : s.sess = .run) : (markEos s).Inv where
  memory := h.memory
  cfgLegal := h.cfgLegal
  atRoot _ := h.atRoot (.inl run)
  inside _ := h.inside (.inl run)
  eosInRun := by simp
  eosInDrain _ := rfl
  depthBound := h.depthBound
  errorRecorded := by simpa using h.errCode_eq_zero (by simp [run])
  errorNamed := by simp
  settled := by simp

theorem State.Inv.pushBits {s : State} (h : s.Inv) (run : s.sess = .run) (bs : List Bool) : (pushBits bs s).Inv :=
  { h with settled := by simp [run] }

/-- Outside a session the walker stands nowhere, and the tables and CFG can change under it (R140). -/
theorem State.Inv.of_closed {s t : State} (h : s.Inv) (closed : ¬ active s) (memory : Memory.wf t = true)
    (legal : Machine.cfgLegal t.cfg.k t.cfg.lutEn = true) (sess : t.sess = s.sess := by rfl)
    (errCode : t.errCode = s.errCode := by rfl) (depth : t.depth = s.depth := by rfl)
    (bitq : t.bitq = s.bitq := by rfl) : t.Inv := by
  have closed : ¬ active t := by simpa only [active, sess] using closed
  exact { memory, cfgLegal := legal
          atRoot := fun ha => absurd ha closed
          inside := fun ha => absurd ha closed
          eosInRun := fun hr => absurd (.inl hr) closed
          eosInDrain := fun hd => absurd (.inr hd) closed
          depthBound := depth ▸ h.depthBound
          errorRecorded := by simpa only [sess, errCode] using h.errorRecorded
          errorNamed := by simpa only [sess, errCode] using h.errorNamed
          settled := by simpa only [sess, bitq, depth] using h.settled }

/-- The end of a session: BITQ is empty and the walker at a boundary, as DONE has it (R171). -/
theorem State.Inv.finish {s : State} (h : s.Inv) (act : active s) (empty : s.bitq = []) (boundary : s.depth = 0) :
    (finish s).Inv where
  memory := h.memory
  cfgLegal := h.cfgLegal
  atRoot := by simp [active]
  inside := by simp [active]
  eosInRun := by simp
  eosInDrain := by simp
  depthBound := h.depthBound
  errorRecorded := by
    have alive : s.sess ≠ .error := by rintro hs; simp [active, hs] at act
    simpa using h.errCode_eq_zero alive
  errorNamed := by simp
  settled _ := ⟨empty, boundary⟩

/-- In an open session the walker may move to a boundary at the root, or to an internal node inside a codeword (R35). -/
theorem State.Inv.moveWalker {s : State} (h : s.Inv) (act : active s) (n : Nat) {i : NodeIdx} {d : BitVec 12}
    (bound : d.toNat ≤ 4094) (atRoot : d = 0 → i = s.cfg.root)
    (inside : d ≠ 0 → ∃ left right, nodeRead i s = some (.internal left right)) :
    State.Inv { consume n s with cur := i, depth := d } :=
  { h with
    atRoot := fun _ => atRoot
    inside := fun _ => inside
    depthBound := bound
    settled := by rintro (hs | hs) <;> simp_all [active] }

/-! ### Commands, the walker and the other moves -/

theorem CommandEffect.keeps_inv {i : Instr} {s t : State} (effect : CommandEffect i s t) (h : s.Inv) : t.Inv := by
  cases effect with
  | nothing _ => exact h
  | error e _ _ => exact h.raise e _
  | held _ => exact h.congr
  | setnp _ _ _ => exact h.congr
  | writeNode e _ closed => exact h.of_closed closed (writeNodeAtNp_keeps_wf e h.memory) h.cfgLegal
  | setlp _ _ _ => exact h.congr
  | writeLut e _ closed => exact h.of_closed closed (writeLutAtLp_keeps_wf e h.memory) h.cfgLegal
  | cfg _ _ _ _ _ closed legal => exact h.of_closed closed h.memory legal
  | start _ _ => exact h.openSession
  | pushb _ _ _ run => exact h.pushBits run _
  | eos _ run => exact h.markEos run
  | abort _ _ => exact h.closeSession

theorem WalkerEffect.keeps_inv {s t : State} (effect : WalkerEffect s t) (act : active s) (h : s.Inv) : t.Inv := by
  cases effect with
  | error e _ => exact h.raise e _
  | finish empty _ boundary => exact h.finish act empty boundary
  | symbol n sym _ _ => exact (h.moveWalker act n (by decide) (fun _ => rfl) (fun hd => absurd rfl hd)).congr
  | descend n i d _ _ deeper bound isInternal =>
    exact h.moveWalker act n bound (fun hd => absurd hd deeper) fun _ => isInternal

theorem walkerStep_keeps_inv {s t : State} (h : s.Inv) (hw : walkerStep s = some (.next t)) : t.Inv :=
  have ⟨act, effect⟩ := walkerStep_effect h.cfgLegal h.depthBound hw
  effect.keeps_inv act h

theorem execute_keeps_inv {w : Word} {s t : State} (h : s.Inv) (he : execute w s = .next t) : t.Inv :=
  match execute_effect he with
  | .inl ⟨_, _, effect⟩ => effect.keeps_inv h
  | .inr illegal => illegal ▸ h.raise ..

theorem takeRecord_keeps_inv {s : State} (h : s.Inv) : (takeRecord s).Inv := by
  unfold takeRecord
  split
  · exact h
  · exact h.congr

theorem Move.keeps_inv {s t : State} (move : Move s t) (h : s.Inv) : t.Inv := by
  cases move with
  | wait => exact h
  | walker _ hw _ => exact walkerStep_keeps_inv h hw
  | command w rest _ _ _ he _ => exact execute_keeps_inv (s := { s with accepted := rest }) h.congr he
  | accept => exact h.congr
  | refuse => exact h.congr
  | take rest _ => exact takeRecord_keeps_inv (s := { s with agenda := rest }) h.congr
  | status => exact h.congr
  | lower => exact h.congr
  | reset => exact reset_inv rfl

/-- The invariant as a step lemma; every way a step can go is a move. -/
theorem step_keeps_inv {s t : State} (h : s.Inv) (hs : step s = .next t) : t.Inv := by
  obtain ⟨m, n, move, rfl⟩ := step_move hs
  exact (move.keeps_inv h).congr

/-! ### A step answers a next state -/

/-- A move, where there is one, answers a next state: no fault and no refusal. -/
def AnswersNext (move : Option Result) : Prop := ∀ r, move = some r → ∃ t, r = .next t

@[simp] theorem answersNext_none : AnswersNext none := nofun

@[simp] theorem answersNext_next (t : State) : AnswersNext (some (.next t)) := by
  rintro _ ⟨⟩; exact ⟨t, rfl⟩

theorem answersNext_ifFits (s t : State) : AnswersNext (ifFits s (.next t)) := by
  simp only [ifFits]; split <;> simp

theorem AnswersNext.choose {first : Bool} {a b : Option Result} (ha : AnswersNext a) (hb : AnswersNext b) :
    AnswersNext (choose first a b) := by
  unfold Machine.choose
  split
  · exact hb
  · exact ha
  · obtain ⟨t, rfl⟩ := ha _ rfl
    obtain ⟨u, rfl⟩ := hb _ rfl
    cases first <;> exact answersNext_next _

theorem answersNext_emptyStep (s : State) : AnswersNext (emptyStep s) := by
  unfold emptyStep
  split
  · split <;> simp
  · simp

theorem answersNext_boundaryStep (s : State) : AnswersNext (boundaryStep s) := by
  unfold boundaryStep
  split
  · simp
  · simp
  · split
    · split
      · simp
      · split <;> simp
    · simp

theorem answersNext_insideStep {s : State} (h : ∃ left right, nodeRead s.cur s = some (.internal left right)) :
    AnswersNext (insideStep s) := by
  obtain ⟨left, right, hn⟩ := h
  simp [insideStep, hn]

/-- The walker faults in no state that meets the invariant: inside a codeword it stands at an internal node (R35). -/
theorem answersNext_walkerStep {s : State} (h : s.Inv) : AnswersNext (walkerStep s) := by
  unfold walkerStep
  split
  · rename_i act
    split
    · exact answersNext_emptyStep s
    · split
      · exact answersNext_boundaryStep s
      · exact answersNext_insideStep (h.inside act ‹_›)
  · simp

theorem answersNext_walkerMove {s : State} (h : s.Inv) : AnswersNext (walkerMove s) := by
  unfold walkerMove
  split
  · obtain ⟨t, rfl⟩ := answersNext_walkerStep h _ ‹_›
    exact answersNext_ifFits s t
  · simp

theorem answersNext_commandMove (w : Word) (s : State) : AnswersNext (commandMove w s) := by
  unfold commandMove
  split
  · obtain ⟨t, he⟩ := execute_next w s
    exact he ▸ answersNext_ifFits s t
  · simp

theorem answersNext_portMove (s : State) : AnswersNext (portMove s) := by
  unfold portMove
  split
  · simp
  · exact answersNext_commandMove _ _

theorem answersNext_hostMove (s : State) : AnswersNext (hostMove s) := by
  unfold hostMove
  split
  · simp
  · simp only [offerWord]
    split
    · split <;> simp [tick]
    · simp
  · simp
  · simp
  · simp

theorem answersNext_resetMove (s : State) : AnswersNext (resetMove s) := by
  unfold resetMove
  split <;> simp

/-- From a state that meets the invariant a step neither faults nor refuses. -/
theorem step_next {s : State} (h : s.Inv) : ∃ t, step s = .next t := by
  cases hr : rstN s with
  | false => exact ⟨_, step_of_low hr⟩
  | true =>
    have block := (answersNext_portMove s).choose (first := Config.effectFirst s.draws) (answersNext_walkerMove h)
    have ports := (answersNext_hostMove s).choose (first := Config.hostFirst s.draws) block
    have all := (answersNext_resetMove s).choose (first := Config.resetFirst s.draws) ports
    rw [step_of_high hr, portsMove]
    generalize Machine.choose _ (resetMove s) _ = c at all ⊢
    cases c with
    | none => exact ⟨s, rfl⟩
    | some r => exact all r rfl

/-- Settles O51: a step answers a next state, and each move keeps the invariant. -/
theorem stepKeepsInvariant : Obligations.StepKeepsInvariant := by
  unfold Obligations.StepKeepsInvariant
  intro s h
  obtain ⟨t, ht⟩ := step_next h
  exact ⟨t, ht, step_keeps_inv h ht⟩

/-- Settles O50: after reset every element is 0, empty or IDLE (R241). -/
theorem invariantHoldsAtReset : Obligations.InvariantHoldsAtReset := by
  unfold Obligations.InvariantHoldsAtReset
  exact ⟨reset_inv rfl, Nat.zero_le _, Nat.zero_le _⟩

end Sys2Proof.Machine

/-! ## The status port (R37 to R46)

A register is its fields side by side, the lowest last: a field is read by skipping the fields below it. -/
namespace Sys2Proof.Machine
open BitVec (extractLsb'_append_eq_of_le extractLsb'_append_eq_of_add_le extractLsb'_append_eq_right extractLsb'_eq_self
  getLsbD_append)

theorem statusWord_fields (s : State) :
    field (statusWord s) 0 3 = s.sess.code ∧ field (statusWord s) 6 2 = 0 ∧ field (statusWord s) 8 8 = s.errCode ∧
    field (statusWord s) 18 14 = 0 := by
  simp only [field, statusWord]
  refine ⟨extractLsb'_append_eq_right, ?_, ?_, ?_⟩ <;> (repeat rw [extractLsb'_append_eq_of_le (by decide)])
  · exact extractLsb'_append_eq_right
  · exact extractLsb'_append_eq_right
  · exact extractLsb'_eq_self

theorem statusWord_flags (s : State) :
    (statusWord s).getLsbD 3 = s.eosSeen ∧ (statusWord s).getLsbD 4 = (s.depth == 0) ∧
    (statusWord s).getLsbD 5 = irq s ∧ (statusWord s).getLsbD 16 = s.bitq.isEmpty ∧
    (statusWord s).getLsbD 17 = s.outq.isEmpty := by
  simp only [statusWord]
  refine ⟨?_, ?_, ?_, ?_, ?_⟩ <;> (repeat rw [getLsbD_append]) <;> simp

theorem cfgWord_fields (c : Cfg) :
    field (0#14 ++ c.bits) 0 12 = c.root ∧ field (0#14 ++ c.bits) 12 4 = c.k ∧
    (0#14 ++ c.bits).getLsbD 16 = c.lutEn ∧ (0#14 ++ c.bits).getLsbD 17 = c.irqEn ∧ field (0#14 ++ c.bits) 18 14 = 0 := by
  simp only [field, Cfg.bits]
  refine ⟨?_, ?_, ?_, ?_, ?_⟩
  · rw [extractLsb'_append_eq_of_add_le (by decide)]; exact extractLsb'_append_eq_right
  · rw [extractLsb'_append_eq_of_add_le (by decide), extractLsb'_append_eq_of_le (by decide)]
    exact extractLsb'_append_eq_right
  · repeat rw [getLsbD_append]
    simp
  · repeat rw [getLsbD_append]
    simp
  · rw [extractLsb'_append_eq_of_le (by decide)]; exact extractLsb'_eq_self

/-- Two values, each with zeros above it: the form of offsets 6 and 7 (R43). -/
theorem pairWord_fields (p : Nat) {m : Nat} (high : BitVec m) (low : BitVec 12) :
    BitVec.extractLsb' 0 12 (0#p ++ high ++ 0#4 ++ low) = low ∧
    BitVec.extractLsb' 12 4 (0#p ++ high ++ 0#4 ++ low) = 0 ∧
    BitVec.extractLsb' 16 m (0#p ++ high ++ 0#4 ++ low) = high ∧
    BitVec.extractLsb' (16 + m) p (0#p ++ high ++ 0#4 ++ low) = 0 := by
  refine ⟨extractLsb'_append_eq_right, ?_, ?_, ?_⟩ <;> (repeat rw [extractLsb'_append_eq_of_le (by omega)])
  · exact extractLsb'_append_eq_right
  · exact extractLsb'_append_eq_right
  · simp

/-- The offsets 0xA to 0xF hold no register (R45). -/
theorem statusPort_reserved (s : State) {a : BitVec 4} (h : 10 ≤ a.toNat) : statusPort s a = 0 := by
  unfold statusPort
  split
  case h_11 => rfl
  all_goals omega

/-- Settles O39, register by register. -/
theorem statusRegistersRead : Obligations.StatusRegistersRead := by
  unfold Obligations.StatusRegistersRead
  refine ⟨rfl, fun s => ?_⟩
  obtain ⟨state, reserved6, errCode, reserved18⟩ := statusWord_fields s
  obtain ⟨eosSeen, boundary, irqBit, bitqEmpty, outqEmpty⟩ := statusWord_flags s
  exact ⟨rfl, ⟨state, eosSeen, boundary, irqBit, reserved6, errCode, bitqEmpty, outqEmpty, reserved18⟩,
    cfgWord_fields s.cfg, ⟨rfl, rfl, rfl⟩, pairWord_fields 6 s.lp s.np, pairWord_fields 4 s.depth s.cur,
    levelWord_toNat, levelWord_toNat, fun _ => statusPort_reserved s⟩

/-! ### A status read (R37, R46) -/

/-- With a status read next, the host's move is that read, and the block does not change (R37). -/
theorem hostMove_statusRead {s : State} {a : BitVec 4} {rest : List HostEvent} (head : s.agenda = .statusRead a :: rest) :
    hostMove s = some (.next { s with agenda := rest, statData := statusPort s a }) := by
  simp only [hostMove, head]; rfl

/-- With a status read next, a move is the read, a walker step, the effect of an accepted word, or a reset. -/
theorem Move.of_statusRead {s t : State} (move : Move s t) {a : BitVec 4} {rest : List HostEvent}
    (head : s.agenda = .statusRead a :: rest) (n : Nat) :
    { t with draws := t.draws + n } = ({ s with agenda := rest, statData := statusPort s a, draws := t.draws + n } : State) ∨
    ByWalker s { t with draws := t.draws + n } ∨ ByEffect s { t with draws := t.draws + n } ∨
    ByReset s { t with draws := t.draws + n } := by
  cases move with
  | wait _ host _ _ => simp [hostMove_statusRead head] at host
  | walker _ hw _ => exact .inr (.inl ⟨t, hw, rfl⟩)
  | command w rest _ accepted _ he _ => exact .inr (.inr (.inl ⟨w, rest, t, accepted, he, rfl⟩))
  | status _ _ head' =>
    obtain ⟨⟨⟩, rfl⟩ := List.cons.inj (head.symm.trans head')
    exact .inl rfl
  | lower more rest ahead => exact .inr (.inr (.inr (.inr ⟨more, rest, ahead, rfl⟩)))
  | reset low => exact .inr (.inr (.inr (.inl low)))
  | accept _ _ head' | refuse _ _ head' | take _ head' => simp [head] at head'

/-- Settles O40: a step is one move, and of the host's moves only the read is possible. -/
theorem statusReadShowsAStateOnTheWay : Obligations.StatusReadShowsAStateOnTheWay := by
  unfold Obligations.StatusReadShowsAStateOnTheWay
  intro s a rest head
  constructor
  · intro t ht
    obtain ⟨m, n, move, rfl⟩ := step_move ht
    exact move.of_statusRead head n
  · intro walker port
    exact stepsTo_of_hostMove (hostMove_statusRead head) port walker

/-! ## The queues stay within their capacities (R44, R251) -/

/-- A move that fits exceeds a capacity only where it was exceeded before (R251). -/
theorem QueuesBounded.of_fits {s t : State} (h : QueuesBounded s) (room : fits s t = true) : QueuesBounded t := by
  obtain ⟨hb, ho⟩ := h
  simp only [fits, Bool.and_eq_true, Bool.or_eq_true, Nat.ble_eq] at room
  exact ⟨by omega, by omega⟩

theorem takeRecord_keeps_bounds {s : State} (h : QueuesBounded s) : QueuesBounded (takeRecord s) := by
  obtain ⟨hb, ho⟩ := h
  unfold takeRecord
  split
  · exact ⟨hb, ho⟩
  · rename_i r rest hq
    rw [hq, List.length_cons] at ho
    exact ⟨hb, Nat.le_of_succ_le ho⟩

theorem Move.keeps_bounds {s t : State} (move : Move s t) (h : QueuesBounded s) : QueuesBounded t := by
  cases move with
  | walker _ _ room => exact h.of_fits room
  | command w rest _ _ _ _ room => exact QueuesBounded.of_fits (s := { s with accepted := rest }) h room
  | take rest _ => exact takeRecord_keeps_bounds (s := { s with agenda := rest }) h
  | reset => exact ⟨Nat.zero_le _, Nat.zero_le _⟩
  | wait | accept | refuse | status | lower => exact h

/-- Settles O52: only the moves that wait for room lengthen a queue. -/
theorem queuesStayWithinCapacity : Obligations.QueuesStayWithinCapacity := by
  unfold Obligations.QueuesStayWithinCapacity
  intro s t h hs
  obtain ⟨m, n, move, rfl⟩ := step_move hs
  exact move.keeps_bounds h

end Sys2Proof.Machine

/-! ## The tables, the pending bits and the record stream (R62, R66, R70, R73, R79, R82)

What a step that is no reset does to the memories and to the records, in every state, whether it meets the invariant or
not: `WalkerEffect` is for states that meet it, so the walker's part starts from `WalkerOutcome`. -/
namespace Sys2Proof.Machine

/-! ### What a walker step can do in any state -/

/-- The outcomes of a walker step, with no assumption on the state (R163 to R173). -/
inductive WalkerOutcome (s : State) : State → Prop where
  /-- Error entry with BIT_COUNT (R211). -/
  | error (e : ErrName) (walkers : e.code.toNat < 8) : WalkerOutcome s (walkerError e s)
  /-- The end of the session (R171). -/
  | finish (empty : s.bitq = []) (eos : s.eosSeen = true) (boundary : s.depth = 0) : WalkerOutcome s (finish s)
  /-- A codeword completed by consuming `n` bits (R167, R168, R173). -/
  | symbol (n : Nat) (sym : Symbol) (enough : n ≤ s.bitq.length) : WalkerOutcome s (emitSymbol sym (consume n s))
  /-- A move of `n` bits down the tree (R169, R173). -/
  | descend (n : Nat) (i : NodeIdx) (d : BitVec 12) (enough : n ≤ s.bitq.length) :
      WalkerOutcome s { consume n s with cur := i, depth := d }

theorem serialStep_outcome (left right : NodeIdx) {s : State} (pending : s.bitq ≠ []) :
    WalkerOutcome s (serialStep left right s) := by
  have enough : 1 ≤ s.bitq.length := List.length_pos_iff.mpr pending
  simp only [serialStep]
  split
  · exact .error _ (by decide)
  · exact .symbol 1 _ enough
  · unfold descendInternal
    split
    · exact .error _ (by decide)
    · exact .descend 1 _ _ enough

theorem lutStep_outcome {s : State} (enough : s.cfg.k.toNat ≤ s.bitq.length) : WalkerOutcome s (lutStep s) := by
  simp only [lutStep]
  split
  · exact .error _ (by decide)
  · exact .error _ (by decide)
  · split
    · exact .error _ (by decide)
    · exact .symbol _ _ (by omega)
  · split
    · exact .error _ (by decide)
    · exact .symbol _ _ enough
    · exact .descend _ _ _ enough

theorem emptyStep_outcome {s t : State} (empty : s.bitq = []) (h : emptyStep s = some (.next t)) :
    WalkerOutcome s t := by
  unfold emptyStep at h
  split at h
  · split at h <;> cases h
    · exact .finish empty ‹_› ‹_›
    · exact .error _ (by decide)
  · cases h

theorem boundaryStep_outcome {s t : State} (pending : s.bitq ≠ []) (h : boundaryStep s = some (.next t)) :
    WalkerOutcome s t := by
  unfold boundaryStep at h
  split at h
  · cases h; exact .error _ (by decide)
  · cases h; exact .symbol 1 _ (List.length_pos_iff.mpr pending)
  · split at h
    · split at h
      · cases h; exact lutStep_outcome ‹_›
      · split at h <;> cases h
        exact serialStep_outcome _ _ pending
    · cases h; exact serialStep_outcome _ _ pending

theorem insideStep_outcome {s t : State} (pending : s.bitq ≠ []) (h : insideStep s = some (.next t)) :
    WalkerOutcome s t := by
  unfold insideStep at h
  split at h <;> cases h
  exact serialStep_outcome _ _ pending

theorem walkerStep_outcome {s t : State} (h : walkerStep s = some (.next t)) : WalkerOutcome s t := by
  unfold walkerStep at h
  split at h
  · split at h
    · exact emptyStep_outcome ‹_› h
    · split at h
      · exact boundaryStep_outcome ‹_› h
      · exact insideStep_outcome ‹_› h
  · cases h

/-! ### What a step that is no reset can do in any state -/

/-- The effects of a step that is no reset; what the host's part does beside the block is left open. -/
inductive StepEffect (s : State) : State → Prop where
  /-- A wait, an offered word or a status read: the block and the records taken do not change (R37, R249). -/
  | host (agenda : List HostEvent) (accepted : List Word) (statData : Word) (readyIn : Nat) :
      StepEffect s { s with agenda := agenda, accepted := accepted, statData := statData, readyIn := readyIn }
  /-- An edge with `out_ready` at 1 (R250). -/
  | take (rest : List HostEvent) : StepEffect s (takeRecord { s with agenda := rest })
  /-- A walker step (R163). -/
  | walker (t : State) (outcome : WalkerOutcome s t) : StepEffect s t
  /-- The effect of an accepted command (R160). -/
  | command (i : Instr) (rest : List Word) (t : State) (effect : CommandEffect i { s with accepted := rest } t) :
      StepEffect s t
  /-- An accepted word that is no command (R207). -/
  | illegal (w : Word) (rest : List Word) : StepEffect s (raise .illegalCmd w { s with accepted := rest })

theorem Move.effect {s t : State} (move : Move s t) (noReset : ¬ ByReset s t) : StepEffect s t := by
  cases move with
  | wait => exact .host s.agenda s.accepted s.statData s.readyIn
  | walker _ h _ => exact .walker t (walkerStep_outcome h)
  | command w rest _ _ _ h _ =>
    obtain ⟨i, -, effect⟩ | rfl := execute_effect h
    · exact .command i rest t effect
    · exact .illegal w rest
  | accept w rest => exact .host rest (s.accepted ++ [w]) s.statData s.readyIn
  | refuse => exact .host s.agenda s.accepted s.statData (s.readyIn - 1)
  | take rest => exact .take rest
  | status a rest => exact .host rest s.accepted (statusPort s a) s.readyIn
  | lower more rest ahead => exact absurd (.inr ⟨more, rest, ahead, rfl⟩) noReset
  | reset low => exact absurd (.inl low) noReset

/-- A step that is no reset has one of the effects, after `n` free choices. -/
theorem step_effect {s t : State} (h : step s = .next t) (noReset : ¬ ByReset s t) :
    ∃ m n, StepEffect s m ∧ t = { m with draws := m.draws + n } := by
  obtain ⟨m, n, move, rfl⟩ := step_move h
  exact ⟨m, n, move.effect noReset, rfl⟩

/-! ### The tables, CFG and the write pointers (R82, R248) -/

/-- The tables, CFG, NP and LP are the same in both states. -/
def SameSetup (s t : State) : Prop := t.nodes = s.nodes ∧ t.lut = s.lut ∧ t.cfg = s.cfg ∧ t.np = s.np ∧ t.lp = s.lp

theorem SameSetup.refl (s : State) : SameSetup s s := ⟨rfl, rfl, rfl, rfl, rfl⟩

theorem SameSetup.raise (e : ErrName) (info : Word) (s : State) : SameSetup s (raise e info s) := by simp [SameSetup]

theorem SameSetup.takeRecord (s : State) : SameSetup s (takeRecord s) := by
  unfold Machine.takeRecord
  split <;> exact .refl _

/-- The walker reads the tables and CFG and writes neither (R82). -/
theorem WalkerOutcome.sameSetup {s t : State} (outcome : WalkerOutcome s t) : SameSetup s t := by
  cases outcome with
  | error e _ => exact .raise ..
  | finish | symbol | descend => exact .refl _

/-- The commands that change the tables, CFG or a pointer have their effect outside a session only (R140). -/
theorem CommandEffect.sameSetup {i : Instr} {s t : State} (effect : CommandEffect i s t) (act : active s) :
    SameSetup s t := by
  cases effect with
  | error => exact .raise ..
  | nothing | held | pushb | eos | abort => exact .refl _
  | setnp _ _ closed | writeNode _ _ closed | setlp _ _ closed | writeLut _ _ closed | cfg _ _ _ _ _ closed _
  | start _ closed => exact absurd act closed

theorem StepEffect.sameSetup {s t : State} (effect : StepEffect s t) (act : active s) : SameSetup s t := by
  cases effect with
  | host => exact .refl _
  | take rest => exact .takeRecord { s with agenda := rest }
  | walker _ outcome => exact outcome.sameSetup
  | command _ rest _ effect => exact CommandEffect.sameSetup (s := { s with accepted := rest }) effect act
  | illegal _ rest => exact .raise _ _ { s with accepted := rest }

/-- Settles O47, from the effects of a step: in an open session none writes the setup. -/
theorem tablesFixedInSession : Obligations.TablesFixedInSession := by
  unfold Obligations.TablesFixedInSession
  intro s t h act noReset
  obtain ⟨m, n, effect, rfl⟩ := step_effect h noReset
  exact effect.sameSetup act

/-! ### A written entry stays written (R62, R66) -/

/-- Every entry written in `t` is written in `t'`. -/
def KeepsWritten {α : Type} (t t' : Table α) : Prop := ∀ k, tableRead t k ≠ none → tableRead t' k ≠ none

theorem KeepsWritten.refl {α : Type} (t : Table α) : KeepsWritten t t := fun _ h => h

theorem KeepsWritten.of_eq {α : Type} {t t' : Table α} (h : t' = t) : KeepsWritten t t' := h ▸ .refl t

theorem keepsWritten_tableWrite {α : Type} (t : Table α) (i : Nat) (e : α) : KeepsWritten t (tableWrite t i e) := by
  intro k written
  rw [tableRead_tableWrite]
  split
  · exact Option.some_ne_none e
  · exact written

/-- A second write at an index overwrites the first. -/
theorem tableWrite_tableWrite {α : Type} (t : Table α) (i : Nat) (f e : α) :
    tableWrite (tableWrite t i f) i e = tableWrite t i e := by
  induction t with
  | nil => simp [tableWrite]
  | cons head rest ih =>
    obtain ⟨j, g⟩ := head
    obtain before | rfl | after := lt_trichotomy i j
    · simp [tableWrite, before]
    · simp [tableWrite]
    · simp [tableWrite, after.not_gt, after.ne', ih]

/-- Both tables keep their written entries. -/
def TablesKeepWritten (s t : State) : Prop := KeepsWritten s.nodes t.nodes ∧ KeepsWritten s.lut t.lut

theorem TablesKeepWritten.of_eq {s t : State} (nodes : t.nodes = s.nodes) (lut : t.lut = s.lut) :
    TablesKeepWritten s t := ⟨.of_eq nodes, .of_eq lut⟩

theorem SameSetup.tablesKeepWritten {s t : State} (same : SameSetup s t) : TablesKeepWritten s t := by
  obtain ⟨nodes, lut, -⟩ := same
  exact .of_eq nodes lut

/-- Of the commands only the table writes change a table, and a write takes no entry back. -/
theorem CommandEffect.tablesKeepWritten {i : Instr} {s t : State} (effect : CommandEffect i s t) :
    TablesKeepWritten s t := by
  cases effect with
  | writeNode e => exact ⟨keepsWritten_tableWrite s.nodes s.np.toNat e, .refl s.lut⟩
  | writeLut e => exact ⟨.refl s.nodes, keepsWritten_tableWrite s.lut s.lp.toNat e⟩
  | error => exact (SameSetup.raise ..).tablesKeepWritten
  | nothing | held | setnp | setlp | cfg | start | pushb | eos | abort => exact .of_eq rfl rfl

theorem StepEffect.tablesKeepWritten {s t : State} (effect : StepEffect s t) : TablesKeepWritten s t := by
  cases effect with
  | host => exact .of_eq rfl rfl
  | take rest => exact (SameSetup.takeRecord { s with agenda := rest }).tablesKeepWritten
  | walker _ outcome => exact outcome.sameSetup.tablesKeepWritten
  | command _ rest _ effect => exact CommandEffect.tablesKeepWritten (s := { s with accepted := rest }) effect
  | illegal _ rest => exact (SameSetup.raise _ _ { s with accepted := rest }).tablesKeepWritten

/-- Settles O21, from the reading rule of a table write and the effects of a step. -/
theorem tableWriteReplacesOneEntry : Obligations.TableWriteReplacesOneEntry := by
  unfold Obligations.TableWriteReplacesOneEntry
  refine ⟨fun s i e => ⟨?_, fun k hk => ?_, fun f => tableWrite_tableWrite s.nodes i.toNat f e⟩,
    fun s i e => ⟨?_, fun k hk => ?_, fun f => tableWrite_tableWrite s.lut i.toNat f e⟩, fun s t h noReset => ?_⟩
  · simp [nodeRead, tableRead_tableWrite]
  · simp [nodeRead, tableRead_tableWrite, BitVec.toNat_inj, hk]
  · simp [lutRead, tableRead_tableWrite]
  · simp [lutRead, tableRead_tableWrite, BitVec.toNat_inj, hk]
  · obtain ⟨m, n, effect, rfl⟩ := step_effect h noReset
    obtain ⟨nodes, lut⟩ := effect.tablesKeepWritten
    exact ⟨fun k => nodes k.toNat, fun k => lut k.toNat⟩

/-! ### The record stream (R73, R79) -/

/-- The records taken and those in OUTQ, as one sequence, grow by at most one record at the end. -/
def StreamGrows (s t : State) : Prop :=
  ∃ rs : List Record, rs.length ≤ 1 ∧ t.taken ++ t.outq = s.taken ++ s.outq ++ rs

theorem StreamGrows.of_eq {s t : State} (h : t.taken ++ t.outq = s.taken ++ s.outq) : StreamGrows s t :=
  ⟨[], Nat.zero_le 1, by rw [h, List.append_nil]⟩

theorem StreamGrows.of_emit {s t : State} {r : Record} (taken : t.taken = s.taken) (outq : t.outq = s.outq ++ [r]) :
    StreamGrows s t := ⟨[r], Nat.le_refl 1, by rw [taken, outq, List.append_assoc]⟩

theorem StreamGrows.raise (e : ErrName) (info : Word) (s : State) : StreamGrows s (raise e info s) := by
  by_cases h : s.sess = .error
  · rw [raise_of_error h]; exact .of_eq rfl
  · rw [raise_eq, if_neg h]; exact .of_emit rfl rfl

theorem WalkerOutcome.streamGrows {s t : State} (outcome : WalkerOutcome s t) : StreamGrows s t := by
  cases outcome with
  | error => exact .raise ..
  | finish | symbol => exact .of_emit rfl rfl
  | descend => exact .of_eq rfl

/-- A command adds a record only by error entry (R210). -/
theorem CommandEffect.streamGrows {i : Instr} {s t : State} (effect : CommandEffect i s t) : StreamGrows s t := by
  cases effect with
  | error => exact .raise ..
  | nothing | held | setnp | writeNode | setlp | writeLut | cfg | start | pushb | eos | abort => exact .of_eq rfl

theorem StepEffect.streamGrows {s t : State} (effect : StepEffect s t) : StreamGrows s t := by
  cases effect with
  | host => exact .of_eq rfl
  | take rest => exact .of_eq (takeRecord_stream { s with agenda := rest })
  | walker _ outcome => exact outcome.streamGrows
  | command _ rest _ effect => exact CommandEffect.streamGrows (s := { s with accepted := rest }) effect
  | illegal _ rest => exact .raise _ _ { s with accepted := rest }

/-- Settles O48, from the effects of a step: a take hands a record over, and error entry and the walker add
one at the end. -/
theorem outputStreamOnlyGrows : Obligations.OutputStreamOnlyGrows := by
  unfold Obligations.OutputStreamOnlyGrows
  intro s t h noReset
  obtain ⟨m, n, effect, rfl⟩ := step_effect h noReset
  exact effect.streamGrows

/-! ### Peek (R70) -/

/-- One more bit at the end doubles the number and adds the bit. -/
theorem bitsToNat_concat (bs : List Bool) (b : Bool) : bitsToNat (bs ++ [b]) = 2 * bitsToNat bs + b.toNat := by
  simp [bitsToNat]

/-- The weights of the first `n` bits double when one more bit is read. -/
theorem sum_weights_succ (f : Nat → Nat) (n : Nat) :
    ((List.range (n + 1)).map fun j => f j * 2 ^ (n - j)).sum =
      2 * ((List.range n).map fun j => f j * 2 ^ (n - 1 - j)).sum + f n := by
  have doubled : ∀ j ∈ List.range n, f j * 2 ^ (n - j) = 2 * (f j * 2 ^ (n - 1 - j)) := by
    intro j hj
    have : n - j = n - 1 - j + 1 := by have := List.mem_range.mp hj; omega
    rw [this, pow_succ]; ring
  rw [List.range_succ, List.map_append, List.sum_append, List.map_congr_left doubled, List.sum_map_mul_left]
  simp

theorem bitsToNat_take (bs : List Bool) {n : Nat} (enough : n ≤ bs.length) :
    bitsToNat (bs.take n) = ((List.range n).map fun j => (bs.getD j false).toNat * 2 ^ (n - 1 - j)).sum := by
  induction n with
  | zero => rfl
  | succ n ih =>
    have grow : bs.take (n + 1) = bs.take n ++ [bs.getD n false] := by
      rw [List.getD_eq_getElem bs false enough, List.take_append_getElem]
    rw [grow, bitsToNat_concat, ih (Nat.le_of_succ_le enough)]
    exact (sum_weights_succ (fun j => (bs.getD j false).toNat) n).symm

/-- Settles O22, by induction on the bits read. -/
theorem peekIsFirstBitFirst : Obligations.PeekIsFirstBitFirst := by
  unfold Obligations.PeekIsFirstBitFirst
  intro s n enough
  exact ⟨List.length_take_of_le enough, fun j hj => List.getElem?_take_of_lt hj, bitsToNat_take s.bitq enough⟩

end Sys2Proof.Machine

/-! ## The encoding: decoder and encoder are each other's inverse (R91, R92, R97)

A row's mask is 1 on every bit that is no field, so a word that selects the row is its `match` there, and its fields are the
rest of it. From this follow the one characterisation of `decode` and both directions of R97. -/
namespace Sys2Proof

open Laws.SelectsItsRow (row Statement)

/-- Where a row's mask is all ones, a word that selects the row is the row's `match`. -/
theorem field_of_selects {op : Opcode} {w : Word} (sel : op.selects w = true) {lo len : Nat}
    (ones : field op.mask lo len = BitVec.allOnes len) : field w lo len = field op.matchWord lo len := by
  have masked : w &&& op.mask = op.matchWord := beq_iff_eq.mp sel
  rw [← masked, field, field, BitVec.extractLsb'_and, ← field, ← field, ones, BitVec.and_allOnes]

/-- A word selects no row but the one its opcode byte names (R92). -/
theorem ofByte_of_selects {op : Opcode} {w : Word} (sel : op.selects w = true) :
    Opcode.ofByte (field w 24 8) = some op := by
  rw [field_of_selects sel (by cases op <;> rfl)]
  cases op <;> rfl

theorem opcode_eq_of_selects {a b : Opcode} {w : Word} (ha : a.selects w = true) (hb : b.selects w = true) : a = b :=
  Option.some.inj ((ofByte_of_selects ha).symm.trans (ofByte_of_selects hb))

/-- A word decodes to the fields of the row it selects, when they are well formed, and to nothing else (R97). -/
theorem decode_eq_ok_iff {w : Word} {i : Instr} :
    decode w = .ok i ↔ ∃ op : Opcode, op.selects w = true ∧ fieldsOf op w = i ∧ i.wellFormed = true := by
  constructor
  · intro h
    unfold decode at h
    split at h
    · cases h
    · next op _ =>
      dsimp only at h
      split at h
      · next sel =>
        split at h
        · next wf => cases h; exact ⟨op, sel, rfl, wf⟩
        · cases h
      · cases h
  · rintro ⟨op, sel, rfl, wf⟩
    simp [decode, ofByte_of_selects sel, sel, wf]

/-! ### The fields of a command's word -/

/-- The word of every command carries its row's opcode byte and matches its row. -/
theorem encode_selectsItsRow (i : Instr) : Statement i := by
  cases i with
  | nop => exact Laws.SelectsItsRow.nop
  | setnp a => exact Laws.SelectsItsRow.setnp a
  | wni l r => exact Laws.SelectsItsRow.wni l r
  | wnl a => exact Laws.SelectsItsRow.wnl a
  | setlp a => exact Laws.SelectsItsRow.setlp a
  | wll a n => exact Laws.SelectsItsRow.wll a n
  | wln n => exact Laws.SelectsItsRow.wln n
  | wlx => exact Laws.SelectsItsRow.wlx
  | cfg r k l q => exact Laws.SelectsItsRow.cfg r k l q
  | start => exact Laws.SelectsItsRow.start
  | pushb c d => exact Laws.SelectsItsRow.pushb c d
  | eos => exact Laws.SelectsItsRow.eos
  | abort => exact Laws.SelectsItsRow.abort

theorem extractLsb'_append_middle {a b c : Nat} {x : BitVec a} {y : BitVec b} {z : BitVec c} :
    (x ++ y ++ z).extractLsb' c b = y := by
  rw [BitVec.extractLsb'_append_eq_of_le (Nat.le_refl c), Nat.sub_self, BitVec.extractLsb'_append_eq_right]

/-- The fields taken from a command's word are the command's (R91). -/
theorem fieldsOf_encode (i : Instr) : fieldsOf (row i) (encode i) = i := by
  cases i with
  | nop | wlx | start | eos | abort => rfl
  | setnp a => exact congrArg Instr.setnp BitVec.extractLsb'_append_eq_right
  | wni l r => exact congrArg₂ Instr.wni BitVec.extractLsb'_append_eq_right extractLsb'_append_middle
  | wnl a => exact congrArg Instr.wnl BitVec.extractLsb'_append_eq_right
  | setlp a => exact congrArg Instr.setlp BitVec.extractLsb'_append_eq_right
  | wll a n => exact congrArg₂ Instr.wll BitVec.extractLsb'_append_eq_right extractLsb'_append_middle
  | wln n => exact congrArg Instr.wln BitVec.extractLsb'_append_eq_right
  | cfg r k l q =>
    have root : field (encode (.cfg r k l q)) 0 12 = r := BitVec.extractLsb'_append_eq_right
    have width : field (encode (.cfg r k l q)) 12 4 = k := extractLsb'_append_middle
    have lutEn : flag (encode (.cfg r k l q)) 16 = l := by
      rw [flag, encode]; repeat rw [BitVec.getLsbD_append]
      simp
    have irqEn : flag (encode (.cfg r k l q)) 17 = q := by
      rw [flag, encode]; repeat rw [BitVec.getLsbD_append]
      simp
    simp only [row, fieldsOf, root, width, lutEn, irqEn]
  | pushb c d => exact congrArg₂ Instr.pushb extractLsb'_append_middle BitVec.extractLsb'_append_eq_right

/-- Settles O1: the word of a command selects its row, and the row's fields are the command's. -/
theorem decodeOfEncode : Obligations.DecodeOfEncode := by
  unfold Obligations.DecodeOfEncode
  intro i wf
  obtain ⟨-, sel⟩ := encode_selectsItsRow i
  exact decode_eq_ok_iff.mpr ⟨row i, sel, fieldsOf_encode i, wf⟩

/-! ### The word of the fields a word has -/

/-- Neighbouring fields are one field. -/
theorem field_append_field (w : Word) {mid lo m n : Nat} (next : mid = lo + n) :
    field w mid m ++ field w lo n = field w lo (m + n) :=
  BitVec.extractLsb'_append_extractLsb'_eq_extractLsb' next

theorem field_all (w : Word) : field w 0 32 = w := BitVec.extractLsb'_eq_self

theorem ofBool_flag (w : Word) (i : Nat) : BitVec.ofBool (flag w i) = field w i 1 := by
  ext j hj
  obtain rfl : j = 0 := by omega
  simp [field, flag]

/-- The word of the fields of a selected row: above the fields stand the bits the row fixes (R91, R92). -/
theorem encode_fieldsOf {op : Opcode} {w : Word} (sel : op.selects w = true) : encode (fieldsOf op w) = w := by
  cases op with
  | nop | wlx | start | eos | abort =>
    have all := field_of_selects sel (lo := 0) (len := 32) rfl
    exact all.symm.trans (field_all w)
  | setnp =>
    have head : field w 12 20 = 0x01#8 ++ 0#12 := field_of_selects sel rfl
    simp only [fieldsOf, encode, ← head, field_append_field]
    exact field_all w
  | wni =>
    have head : field w 24 8 = 0x02#8 := field_of_selects sel rfl
    simp only [fieldsOf, encode, ← head, field_append_field]
    exact field_all w
  | wnl =>
    have head : field w 16 16 = 0x03#8 ++ 0#8 := field_of_selects sel rfl
    simp only [fieldsOf, encode, ← head, field_append_field]
    exact field_all w
  | setlp =>
    have head : field w 10 22 = 0x04#8 ++ 0#14 := field_of_selects sel rfl
    simp only [fieldsOf, encode, ← head, field_append_field]
    exact field_all w
  | wll =>
    have head : field w 20 12 = 0x05#8 ++ 0#4 := field_of_selects sel rfl
    simp only [fieldsOf, encode, ← head, field_append_field]
    exact field_all w
  | wln =>
    have head : field w 12 20 = 0x06#8 ++ 0#12 := field_of_selects sel rfl
    simp only [fieldsOf, encode, ← head, field_append_field]
    exact field_all w
  | cfg =>
    have head : field w 18 14 = 0x08#8 ++ 0#6 := field_of_selects sel rfl
    simp only [fieldsOf, encode, ← head, ofBool_flag, field_append_field]
    exact field_all w
  | pushb =>
    have head : field w 21 11 = 0x0A#8 ++ 0#3 := field_of_selects sel rfl
    simp only [fieldsOf, encode, ← head, field_append_field]
    exact field_all w

/-- Settles O2: a word that decodes selects the row whose fields it decodes to. -/
theorem encodeOfDecode : Obligations.EncodeOfDecode := by
  unfold Obligations.EncodeOfDecode
  intro w i h
  obtain ⟨op, sel, rfl, wf⟩ := decode_eq_ok_iff.mp h
  exact ⟨encode_fieldsOf sel, wf⟩

/-- Settles O3: the opcode byte of a word that selects a row names the row, and a word that decodes selects one. -/
theorem atMostOneRowSelects : Obligations.AtMostOneRowSelects := by
  unfold Obligations.AtMostOneRowSelects
  refine ⟨rfl, fun w a b ha hb => opcode_eq_of_selects (beq_iff_eq.mpr ha) (beq_iff_eq.mpr hb), fun w noRow => ?_⟩
  match h : decode w with
  | .error why => exact ⟨why, rfl⟩
  | .ok i =>
    obtain ⟨op, sel, -⟩ := decode_eq_ok_iff.mp h
    exact absurd (beq_iff_eq.mp sel) (noRow op)

end Sys2Proof

/-! ## The pseudo-instructions PUSHS and WLLREP (R111, R112) -/
namespace Sys2Proof.Machine

/-! ### PUSHS: the bits of a PUSHB -/

/-- Bit `j` of a bit string, the first most significant (R70). -/
theorem testBit_bitsToNat (bs : List Bool) {j : Nat} (h : j < bs.length) :
    (bitsToNat bs).testBit (bs.length - 1 - j) = bs[j] := by
  induction bs using List.reverseRecOn with
  | nil => cases h
  | append_singleton bs b ih =>
    rw [bitsToNat_concat]
    simp only [List.length_append, List.length_singleton, Nat.add_sub_cancel] at h ⊢
    obtain before | rfl := Nat.lt_succ_iff_lt_or_eq.mp h
    · have place : bs.length - j = bs.length - 1 - j + 1 := by omega
      have upper : (2 * bitsToNat bs + b.toNat) / 2 = bitsToNat bs := by have := b.toNat_lt; omega
      rw [place, Nat.testBit_succ, upper, ih before, List.getElem_append_left before]
    · cases b <;> simp [Nat.testBit_zero]

theorem toNat_pushCount {n : Nat} (h : n ≤ 16) : (BitVec.ofNat 5 n).toNat = n := by
  rw [BitVec.toNat_ofNat]; omega

/-- A PUSHB of at most 16 bits carries these bits, first bit first (R69, R70). -/
theorem carried_pushOf {bs : List Bool} (h : bs.length ≤ 16) : carried (pushOf bs) = bs := by
  rw [pushOf, carried, streamBits, toNat_pushCount h]
  refine List.ext_getElem (by simp) fun j _ hj => ?_
  simp [BitVec.getLsbD_ofNat, testBit_bitsToNat bs hj, show bs.length - 1 - j < 16 by omega]

theorem feeds_pushOf {bs : List Bool} (nonempty : bs ≠ []) (h : bs.length ≤ 16) : feeds (pushOf bs) = true := by
  simp [pushOf, feeds, pushCountOk, toNat_pushCount h, nonempty, h, Config.pushMax]

/-! ### PUSHS: the bit string in chunks of 16 -/

/-- The bits that command `j` of a PUSHS carries: 16 of them from bit `16 * j` on, or as many as are left. -/
def chunk (bs : List Bool) (j : Nat) : List Bool := (bs.drop (16 * j)).take 16

theorem length_chunk (bs : List Bool) (j : Nat) : (chunk bs j).length = min 16 (bs.length - 16 * j) := by
  simp [chunk]

theorem chunk_succ (bs : List Bool) (j : Nat) : chunk bs (j + 1) = chunk (bs.drop 16) j := by
  rw [chunk, chunk, List.drop_drop]; congr 2; omega

/-- With fuel for every bit, the expansion is one PUSHB for each chunk (R111). -/
theorem pushsFor_eq_map_chunk {fuel : Nat} {bs : List Bool} (enough : bs.length ≤ fuel) :
    pushsFor fuel bs = (List.range ((bs.length + 15) / 16)).map fun j => pushOf (chunk bs j) := by
  induction fuel generalizing bs with
  | zero => rw [List.length_eq_zero_iff.mp (Nat.le_zero.mp enough)]; rfl
  | succ fuel ih =>
    rw [pushsFor]
    split
    · next h => rw [h]; rfl
    · next h =>
      have pos : 0 < bs.length := List.length_pos_iff.mpr h
      have shorter : (bs.drop 16).length = bs.length - 16 := List.length_drop
      have count : (bs.length + 15) / 16 = (bs.length - 16 + 15) / 16 + 1 := by omega
      rw [Config.pushMax, ih (by omega), shorter, count, List.range_succ_eq_map, List.map_cons, List.map_map]
      simp only [Function.comp_def, chunk_succ]
      rfl

theorem pushs_eq_map_chunk (bs : List Bool) :
    pushs bs = (List.range ((bs.length + 15) / 16)).map fun j => pushOf (chunk bs j) :=
  pushsFor_eq_map_chunk (Nat.le_refl _)

/-- The commands of the expansion carry the bit string (R111). -/
theorem carriedBits_pushsFor {fuel : Nat} {bs : List Bool} (enough : bs.length ≤ fuel) :
    carriedBits (pushsFor fuel bs) = bs := by
  induction fuel generalizing bs with
  | zero => exact (List.length_eq_zero_iff.mp (Nat.le_zero.mp enough)).symm
  | succ fuel ih =>
    rw [pushsFor]
    split
    · next h => rw [h]; rfl
    · next h =>
      have pos : 0 < bs.length := List.length_pos_iff.mpr h
      have rest : carriedBits (pushsFor fuel (bs.drop 16)) = bs.drop 16 := ih (by rw [List.length_drop]; omega)
      have first : carried (pushOf (bs.take 16)) = bs.take 16 := carried_pushOf (List.length_take_le 16 bs)
      exact (congrArg₂ (· ++ ·) first rest).trans (List.take_append_drop 16 bs)

theorem allFeed_pushs (bs : List Bool) : allFeed (pushs bs) = true := by
  rw [pushs_eq_map_chunk, allFeed, List.all_map, List.all_eq_true]
  intro j hj
  have inside : j < (bs.length + 15) / 16 := List.mem_range.mp hj
  have len := length_chunk bs j
  exact feeds_pushOf (List.length_pos_iff.mp (by omega)) (by omega)

/-- Settles O59: command `j` of the expansion is the PUSHB of chunk `j`. -/
theorem pushsCarriesItsBits : Obligations.PushsCarriesItsBits := by
  unfold Obligations.PushsCarriesItsBits
  intro bs
  refine ⟨by simp [pushs_eq_map_chunk], allFeed_pushs bs, carriedBits_pushsFor (Nat.le_refl _), fun j hj => ?_⟩
  rw [List.getElem?_eq_getElem hj, ← length_chunk, ← chunk]
  simp [pushs_eq_map_chunk, pushOf]

/-! ### WLLREP: one entry written again and again -/

/-- Outside a session no walker step is enabled (R163). -/
theorem walkerStep_of_closed {s : State} (closed : s.sess ≠ .run ∧ s.sess ≠ .drain) : walkerStep s = none := by
  simp [walkerStep, closed]

theorem exec_wll_of_closed {s : State} (closed : s.sess ≠ .run ∧ s.sess ≠ .drain) (sym : Symbol) (len : BitVec 4) :
    exec (.wll sym len) s = .next (writeLutAtLp (.lleaf sym len) s) := checked_passes (outside_passes closed)

/-- Outside a session, `n` times the same WLL is `n` writes at LP (R131). -/
theorem loopCommands_replicate_wll (sym : Symbol) (len : BitVec 4) (n : Nat) {s : State}
    (closed : s.sess ≠ .run ∧ s.sess ≠ .drain) :
    loopCommands (List.replicate n (.wll sym len)) s = .next ((writeLutAtLp (.lleaf sym len))^[n] s) := by
  induction n generalizing s with
  | zero => rfl
  | succ n ih =>
    have still : walkerStep (writeLutAtLp (.lleaf sym len) s) = none := walkerStep_of_closed closed
    rw [List.replicate_succ, loopCommands, exec_wll_of_closed closed]
    exact (congrArg _ (walk_of_quiescent still)).trans (ih closed)

/-- Counting on from the next index (R24). -/
theorem succ_add_ofNat (p : LutIdx) (n : Nat) : p + 1 + BitVec.ofNat 10 n = p + BitVec.ofNat 10 (n + 1) := by
  rw [BitVec.ofNat_add, BitVec.add_assoc, BitVec.add_comm 1]; rfl

/-- Repeated LUT writes advance LP and change the LUT, and nothing else (R66). -/
theorem iterate_writeLutAtLp_frame (e : LutEntry) (n : Nat) (s : State) :
    (writeLutAtLp e)^[n] s = { s with lut := ((writeLutAtLp e)^[n] s).lut, lp := s.lp + BitVec.ofNat 10 n } := by
  induction n generalizing s with
  | zero => simp
  | succ n ih =>
    rw [Function.iterate_succ_apply, ih, ← succ_add_ofNat]
    rfl

/-- Repeated writes of one entry leave it at each index they reach, and where it already stood. -/
theorem lutRead_iterate_writeLutAtLp_hit {e : LutEntry} {n : Nat} {k : LutIdx} {s : State}
    (h : lutRead k s = some e ∨ ∃ j < n, k = s.lp + BitVec.ofNat 10 j) :
    lutRead k ((writeLutAtLp e)^[n] s) = some e := by
  induction n generalizing s with
  | zero => simpa using h
  | succ n ih =>
    apply ih
    rw [lutRead_writeLutAtLp, writeLutAtLp_lp]
    obtain old | ⟨j, hj, rfl⟩ := h
    · exact .inl (by simp [old])
    · cases j with
      | zero => exact .inl (by simp)
      | succ j => exact .inr ⟨j, Nat.lt_of_succ_lt_succ hj, (succ_add_ofNat s.lp j).symm⟩

/-- Repeated LUT writes leave every index they do not reach as it was (R66). -/
theorem lutRead_iterate_writeLutAtLp_miss {e : LutEntry} {n : Nat} {k : LutIdx} {s : State}
    (h : ∀ j < n, k ≠ s.lp + BitVec.ofNat 10 j) : lutRead k ((writeLutAtLp e)^[n] s) = lutRead k s := by
  induction n generalizing s with
  | zero => rfl
  | succ n ih =>
    have notFirst : k ≠ s.lp := by simpa using h 0 n.succ_pos
    rw [Function.iterate_succ_apply, ih fun j hj => ?_, lutRead_writeLutAtLp, if_neg notFirst]
    rw [writeLutAtLp_lp, succ_add_ofNat]
    exact h (j + 1) (Nat.succ_lt_succ hj)

/-- Settles O60: WLLREP is repeated writes of one entry at LP. -/
theorem wllrepFillsEntries : Obligations.WllrepFillsEntries := by
  unfold Obligations.WllrepFillsEntries
  intro sym len k s _ _ _ notRun notDrain
  exact ⟨_, loopCommands_replicate_wll sym len _ ⟨notRun, notDrain⟩, iterate_writeLutAtLp_frame ..,
    fun j hj => lutRead_iterate_writeLutAtLp_hit (.inr ⟨j, hj, rfl⟩), fun _ => lutRead_iterate_writeLutAtLp_miss⟩

end Sys2Proof.Machine

/-! ## The tree-load commands SETNP, WNI and WNL (R120 to R122) -/
namespace Sys2Proof.Machine

/-! ### The encoding of one row, from its mask and match (R91 to R93) -/

/-- The mask of a row whose fields are the bits below `lo` (R91). -/
theorem getLsbD_mask {op : Opcode} {lo : Nat} (mask : op.mask = BitVec.allOnes 32 <<< lo) {i : Nat} (hi : i < 32) :
    op.mask.getLsbD i = decide (lo ≤ i) := by
  rw [mask, BitVec.getLsbD_shiftLeft, BitVec.getLsbD_allOnes]
  simp only [hi, show i - lo < 32 by omega, decide_true, Bool.true_and, Bool.and_true, ← decide_not, Nat.not_lt]

/-- The `match` of a row is its opcode byte, above zeros (R92). -/
theorem getLsbD_matchWord {op : Opcode} {byte : BitVec 8} (matchWord : op.matchWord = byte ++ 0#24) (i : Nat) :
    op.matchWord.getLsbD i = if i < 24 then false else byte.getLsbD (i - 24) := by
  rw [matchWord, BitVec.getLsbD_append, BitVec.getLsbD_zero]

/-- In every row the reserved bits stand right below the opcode byte and the fields below them, so a word selects the
row when its opcode byte is the row's and its reserved bits are 0 (R92). -/
theorem selects_of_fields {op : Opcode} {byte : BitVec 8} {lo len : Nat} (top : lo + len = 24)
    (mask : op.mask = BitVec.allOnes 32 <<< lo) (matchWord : op.matchWord = byte ++ 0#24) {w : Word}
    (opcode : field w 24 8 = byte) (reserved : field w lo len = 0) : op.selects w = true := by
  apply Laws.SelectsItsRow.selects_of_bits
  intro i hi
  rw [BitVec.getLsbD_and, getLsbD_mask mask hi, getLsbD_matchWord matchWord]
  by_cases inOpcode : 24 ≤ i
  · have bit : byte.getLsbD (i - 24) = w.getLsbD i := by
      rw [← opcode, field, BitVec.getLsbD_extractLsb', Nat.add_sub_cancel' inOpcode, decide_eq_true (by omega),
        Bool.true_and]
    rw [if_neg (by omega), bit, decide_eq_true (by omega), Bool.and_true]
  · rw [if_pos (by omega)]
    by_cases inReserved : lo ≤ i
    · have bit : w.getLsbD i = false := by
        have := congrArg (·.getLsbD (i - lo)) reserved
        simpa [field, inReserved, show i - lo < len by omega] using this
      rw [bit, Bool.false_and]
    · rw [decide_eq_false inReserved, Bool.and_false]

/-- A word with a row's opcode byte and a 1 in a bit where the row's mask is all ones and its `match` is 0 decodes to
nothing (R93). -/
theorem decode_error_of_reserved {op : Opcode} {lo len : Nat} (ones : field op.mask lo len = BitVec.allOnes len)
    (zeros : field op.matchWord lo len = 0) {w : Word} (names : Opcode.ofByte (field w 24 8) = some op)
    (reserved : field w lo len ≠ 0) : ∃ why, decode w = .error why := by
  match h : decode w with
  | .error why => exact ⟨why, rfl⟩
  | .ok i =>
    obtain ⟨op', sel, -⟩ := decode_eq_ok_iff.mp h
    obtain rfl : op' = op := Option.some.inj ((ofByte_of_selects sel).symm.trans names)
    exact absurd ((field_of_selects sel ones).trans zeros) reserved

/-- An illegal word goes to error entry (R207). -/
theorem execute_of_decode_error {w : Word} (illegal : ∃ why, decode w = .error why) (s : State) :
    execute w s = .next (raise .illegalCmd w s) := by
  obtain ⟨why, h⟩ := illegal
  rw [execute, h]

/-- A row has the encoding that its mask, its `match` and its opcode byte say (R91 to R93). -/
theorem rowEncoding_of_mask {op : Opcode} {byte : BitVec 8} {lo len : Nat} (top : lo + len = 24)
    (mask : op.mask = BitVec.allOnes 32 <<< lo) (matchWord : op.matchWord = byte ++ 0#24)
    (names : Opcode.ofByte byte = some op) : RowEncoding byte lo len (fieldsOf op) := by
  have ones : field op.mask lo len = BitVec.allOnes len := by
    refine BitVec.eq_of_getLsbD_eq fun j hj => ?_
    rw [field, BitVec.getLsbD_extractLsb', getLsbD_mask mask (by omega)]
    simp
  have zeros : field op.matchWord lo len = 0 := by
    refine BitVec.eq_of_getLsbD_eq fun j hj => ?_
    rw [field, BitVec.getLsbD_extractLsb', getLsbD_matchWord matchWord, if_pos (by omega)]
    simp
  intro w opcode
  constructor
  · intro reserved wf
    exact decode_eq_ok_iff.mpr ⟨op, selects_of_fields top mask matchWord opcode reserved, rfl, wf⟩
  · intro reserved
    exact execute_of_decode_error (decode_error_of_reserved ones zeros (opcode ▸ names) reserved)

/-! ### The state check of the table class (R140) -/

/-- A command of the table class raises WRONG_STATE in RUN (R140). -/
theorem checked_outside_of_run {i : Instr} {body : State → State} {s : State} (run : s.sess = .run) :
    checked .outsideSession i body s = .next (raise .wrongState (encode i) s) := by
  simp [checked, checkState, run]

/-! ### Node writes -/

/-- Outside a session a command that writes a node makes the entry at the old NP its entry, keeps every other entry,
advances NP and changes nothing else (R62, R121, R122). -/
theorem checked_writeNodeAtNp_of_closed (i : Instr) (e : Node) {s : State}
    (closed : s.sess ≠ .run ∧ s.sess ≠ .drain) :
    ∃ t, checked .outsideSession i (writeNodeAtNp e) s = .next t ∧ nodeRead s.np t = some e ∧
      (∀ k, k ≠ s.np → nodeRead k t = nodeRead k s) ∧ t = { s with nodes := t.nodes, np := s.np + 1 } := by
  refine ⟨_, checked_passes (outside_passes closed), ?_, fun k other => ?_, rfl⟩
  · rw [nodeRead_writeNodeAtNp, if_pos rfl]
  · rw [nodeRead_writeNodeAtNp, if_neg other]

/-! ### The three commands -/

/-- Settles O7, from the node write at NP; the row has no reserved bits, so that every word with its opcode byte
selects it. -/
theorem wniWritesInternalNode : Obligations.WniWritesInternalNode := by
  unfold Obligations.WniWritesInternalNode
  intro left right s
  refine ⟨fun notRun notDrain => checked_writeNodeAtNp_of_closed _ _ ⟨notRun, notDrain⟩, checked_outside_of_run,
    fun w opcode => ?_⟩
  have encoding : RowEncoding 0x02 24 0 (fieldsOf .wni) := rowEncoding_of_mask rfl rfl rfl rfl
  obtain ⟨legal, -⟩ := encoding w opcode
  exact legal BitVec.of_length_zero rfl

/-- Settles O8, from the node write at NP and the row's encoding. -/
theorem wnlWritesLeaf : Obligations.WnlWritesLeaf := by
  unfold Obligations.WnlWritesLeaf
  refine ⟨fun sym s => ?_, rowEncoding_of_mask (op := .wnl) rfl rfl rfl rfl⟩
  exact ⟨fun notRun notDrain => checked_writeNodeAtNp_of_closed _ _ ⟨notRun, notDrain⟩, checked_outside_of_run⟩

/-- Settles O6, from the state check and the row's encoding. -/
theorem setnpSetsNodePointer : Obligations.SetnpSetsNodePointer := by
  unfold Obligations.SetnpSetsNodePointer
  refine ⟨fun addr s => ?_, rowEncoding_of_mask (op := .setnp) rfl rfl rfl rfl⟩
  rw [exec, execSetnp]
  exact ⟨fun notRun notDrain => checked_passes (outside_passes ⟨notRun, notDrain⟩), checked_outside_of_run⟩

end Sys2Proof.Machine

/-! ## The LUT-load commands SETLP, WLL, WLN and WLX (R130 to R133) -/
namespace Sys2Proof.Machine

/-! ### LUT writes -/

/-- What the three commands that write a LUT entry do, whatever the entry: outside a session the entry at the old LP
becomes it, every other entry reads as before, LP advances and nothing else changes (R66, R131 to R133); in RUN the
command raises WRONG_STATE (R140). -/
theorem checked_writeLutAtLp (i : Instr) (e : LutEntry) (s : State) :
    (s.sess ≠ .run → s.sess ≠ .drain → ∃ t, checked .outsideSession i (writeLutAtLp e) s = .next t ∧
      lutRead s.lp t = some e ∧ (∀ k, k ≠ s.lp → lutRead k t = lutRead k s) ∧
      t = { s with lut := t.lut, lp := s.lp + 1 }) ∧
    (s.sess = .run → checked .outsideSession i (writeLutAtLp e) s = .next (raise .wrongState (encode i) s)) := by
  refine ⟨fun notRun notDrain => ?_, checked_outside_of_run⟩
  refine ⟨_, checked_passes (outside_passes ⟨notRun, notDrain⟩), ?_, fun k other => ?_, rfl⟩
  · rw [lutRead_writeLutAtLp, if_pos rfl]
  · rw [lutRead_writeLutAtLp, if_neg other]

/-! ### The four commands -/

/-- Settles O10: WLL is a LUT write of a leaf hit, of whatever length. -/
theorem wllWritesLeafHit : Obligations.WllWritesLeafHit := by
  unfold Obligations.WllWritesLeafHit
  exact ⟨fun sym len => checked_writeLutAtLp (.wll sym len) (.lleaf sym len),
    rowEncoding_of_mask (op := .wll) rfl rfl rfl rfl⟩

/-- Settles O11: WLN is a LUT write of a continue-at-node entry, of whatever node. -/
theorem wlnWritesNodeHit : Obligations.WlnWritesNodeHit := by
  unfold Obligations.WlnWritesNodeHit
  exact ⟨fun node => checked_writeLutAtLp (.wln node) (.lnode node), rowEncoding_of_mask (op := .wln) rfl rfl rfl rfl⟩

/-- Settles O12: WLX is a LUT write of an invalid entry; in its word every bit below the opcode byte is reserved. -/
theorem wlxWritesInvalidEntry : Obligations.WlxWritesInvalidEntry := by
  unfold Obligations.WlxWritesInvalidEntry
  exact ⟨checked_writeLutAtLp .wlx .linvalid, rowEncoding_of_mask (op := .wlx) rfl rfl rfl rfl⟩

/-- Settles O9, from the state check and the row's encoding. -/
theorem setlpSetsLutPointer : Obligations.SetlpSetsLutPointer := by
  unfold Obligations.SetlpSetsLutPointer
  refine ⟨fun idx s => ?_, rowEncoding_of_mask (op := .setlp) rfl rfl rfl rfl⟩
  rw [exec, execSetlp]
  exact ⟨fun notRun notDrain => checked_passes (outside_passes ⟨notRun, notDrain⟩), checked_outside_of_run⟩

end Sys2Proof.Machine

/-! ## The session commands CFG, START, PUSHB, EOS, ABORT and NOP (R141 to R146) -/
namespace Sys2Proof.Machine

/-! ### The state check (R140) -/

/-- A command of the session class passes in RUN. -/
theorem inside_passes {s : State} (run : s.sess = .run) : checkState .insideSession s.sess = .passes := by
  rw [run, checkState]

/-- A command of the session class raises WRONG_STATE in IDLE and DONE. -/
theorem checked_inside_of_closed {i : Instr} {body : State → State} {s : State}
    (closed : s.sess = .idle ∨ s.sess = .done) :
    checked .insideSession i body s = .next (raise .wrongState (encode i) s) := by
  obtain idle | done := closed
  · simp [checked, checkState, idle]
  · simp [checked, checkState, done]

/-- A command of the session class is discarded in ERROR (R212). -/
theorem checked_inside_of_error {i : Instr} {body : State → State} {s : State} (error : s.sess = .error) :
    checked .insideSession i body s = .next s := by
  simp [checked, checkState, error]

/-- ABORT passes its state check in every state but DRAIN (R140). -/
theorem always_passes {s : State} (notDrain : s.sess ≠ .drain) : checkState .always s.sess = .passes := by
  cases hs : s.sess with
  | drain => exact absurd hs notDrain
  | idle | run | done | error => rfl

/-! ### The bits and the count of a PUSHB (R96, R143) -/

theorem pushCountOk_iff {cnt : BitVec 5} : pushCountOk cnt = true ↔ 1 ≤ cnt.toNat ∧ cnt.toNat ≤ 16 := by
  rw [pushCountOk, Bool.and_eq_true, bne_iff_ne, decide_eq_true_iff, Nat.one_le_iff_ne_zero, Config.pushMax]

@[simp] theorem length_streamBits (n : Nat) (data : BitVec 16) : (streamBits n data).length = n := by
  simp [streamBits]

/-- DATA is the low half of the word, so the stream bits of a PUSHB are the bits of its word (R95, R143). -/
theorem streamBits_eq_wordBits {cnt : BitVec 5} (data : BitVec 16) (few : cnt.toNat ≤ 16) :
    streamBits cnt.toNat data =
      (List.range cnt.toNat).map fun j => (encode (.pushb cnt data)).getLsbD (cnt.toNat - 1 - j) := by
  refine List.map_congr_left fun j hj => ?_
  have below : cnt.toNat - 1 - j < 16 := by have := List.mem_range.mp hj; omega
  rw [encode, BitVec.getLsbD_append, if_pos below]

/-- With a legal count PUSHB is no more than its state check before the bits (R96, R214). -/
theorem exec_pushb_of_ok {cnt : BitVec 5} (ok : pushCountOk cnt = true) (data : BitVec 16) (s : State) :
    exec (.pushb cnt data) s = checked .insideSession (.pushb cnt data) (pushBits (streamBits cnt.toNat data)) s := by
  rw [exec, execPushb, if_pos ok]

/-- A PUSHB word with a count of 0 or above 16 decodes to nothing (R96). -/
theorem decode_error_of_badCount {w : Word} (opcode : field w 24 8 = 0x0A#8)
    (bad : ¬ pushCountOk (field w 16 5) = true) : ∃ why, decode w = .error why := by
  match h : decode w with
  | .error why => exact ⟨why, rfl⟩
  | .ok i =>
    obtain ⟨op, sel, rfl, wf⟩ := decode_eq_ok_iff.mp h
    have names : Opcode.ofByte (field w 24 8) = some .pushb := by rw [opcode]; rfl
    obtain rfl : op = .pushb := Option.some.inj ((ofByte_of_selects sel).symm.trans names)
    exact absurd wf bad

/-! ### A command for which a queue has no room (R251) -/

/-- The word of a well-formed command executes it (R97). -/
theorem execute_encode {i : Instr} (wf : i.wellFormed = true) (s : State) : execute (encode i) s = exec i s := by
  rw [execute, decodeOfEncode i wf]

/-- A command whose effect does not fit has no effect now, whether or not it might overlap the walker. -/
theorem commandMove_eq_none_of_not_fits {w : Word} {s t : State} (effect : execute w s = .next t)
    (noRoom : ¬ fits s t = true) : commandMove w s = none := by
  rw [commandMove, effect, ifFits, if_neg noRoom, ite_self]

/-- Bits for which BITQ lacks the places do not fit. -/
theorem not_fits_pushBits {bs : List Bool} {s : State} (nonempty : 0 < bs.length)
    (noRoom : Config.bitqDepth < s.bitq.length + bs.length) : ¬ fits s (pushBits bs s) = true := by
  simpa [fits] using ⟨List.length_pos_iff.mp nonempty, noRoom⟩

/-! ### The legality of LUT_EN with K (R22) -/

/-- CFG may hold LUT_EN and K together as R22 says. -/
theorem cfgLegal_iff {k : BitVec 4} {lutEn : Bool} :
    cfgLegal k lutEn = true ↔ lutEn = false ∨ (1 ≤ k.toNat ∧ k.toNat ≤ 10) := by
  rw [cfgLegal, Bool.or_eq_true, Bool.and_eq_true, decide_eq_true_iff, decide_eq_true_iff, Bool.not_eq_true',
    Config.kMax]

/-! ### The six commands -/

/-- Settles O15: the bits appended are those of the word, with which a BITQ that lacks the places does not fit; a bad
count is no decoding. -/
theorem pushbAppendsBits : Obligations.PushbAppendsBits := by
  unfold Obligations.PushbAppendsBits
  refine ⟨fun cnt data s least most => ?_, rowEncoding_of_mask (op := .pushb) rfl rfl rfl rfl,
    fun w s opcode bad => ?_⟩
  · have ok : pushCountOk cnt = true := pushCountOk_iff.mpr ⟨least, most⟩
    refine ⟨fun run => ?_, fun closed => ?_, fun error => ?_, fun rest run head noRoom => ?_⟩
    · rw [exec_pushb_of_ok ok, checked_passes (inside_passes run), streamBits_eq_wordBits data most, pushBits]
    · rw [exec_pushb_of_ok ok, checked_inside_of_closed closed]
    · rw [exec_pushb_of_ok ok, checked_inside_of_error error]
    · have effect : execute (encode (.pushb cnt data)) { s with accepted := rest } =
          .next (pushBits (streamBits cnt.toNat data) { s with accepted := rest }) := by
        rw [execute_encode (i := .pushb cnt data) ok, exec_pushb_of_ok ok]
        exact checked_passes (inside_passes run)
      rw [portMove, head]
      exact commandMove_eq_none_of_not_fits effect
        (not_fits_pushBits (by rwa [length_streamBits]) (by rwa [length_streamBits]))
  · have notOk : ¬ pushCountOk (field w 16 5) = true := by rw [pushCountOk_iff]; omega
    exact execute_of_decode_error (decode_error_of_badCount opcode notOk) s

/-- Settles O13, from the state check, the legality of LUT_EN with K, and the row's encoding. -/
theorem cfgWritesConfiguration : Obligations.CfgWritesConfiguration := by
  unfold Obligations.CfgWritesConfiguration
  refine ⟨fun root k lutEn irqEn s => ?_, rowEncoding_of_mask (op := .cfg) rfl rfl rfl rfl⟩
  rw [exec, execCfg]
  refine ⟨fun notRun notDrain legal => ?_, fun notRun notDrain on bad => ?_, checked_outside_of_run⟩
  · rw [checked_passes (outside_passes ⟨notRun, notDrain⟩), if_pos (cfgLegal_iff.mpr legal)]
  · have illegal : ¬ cfgLegal k lutEn = true := by
      rw [cfgLegal_iff]
      rintro (off | ⟨least, most⟩)
      · exact absurd (on.symm.trans off) (by decide)
      · omega
    rw [checked_passes (outside_passes ⟨notRun, notDrain⟩), if_neg illegal]

/-- Settles O14: past its state check START opens the session. -/
theorem startOpensSession : Obligations.StartOpensSession := by
  unfold Obligations.StartOpensSession
  refine ⟨fun s => ?_, rowEncoding_of_mask (op := .start) rfl rfl rfl rfl⟩
  rw [exec, execStart]
  exact ⟨fun notRun notDrain => checked_passes (outside_passes ⟨notRun, notDrain⟩), checked_outside_of_run⟩

/-- Settles O16, from the state check of the session class and the row's encoding. -/
theorem eosMarksEnd : Obligations.EosMarksEnd := by
  unfold Obligations.EosMarksEnd
  refine ⟨fun s => ?_, rowEncoding_of_mask (op := .eos) rfl rfl rfl rfl⟩
  rw [exec, execEos]
  exact ⟨fun run => checked_passes (inside_passes run), checked_inside_of_closed, checked_inside_of_error⟩

/-- Settles O17: past its state check ABORT closes the session. -/
theorem abortClosesSession : Obligations.AbortClosesSession := by
  unfold Obligations.AbortClosesSession
  refine ⟨fun s notDrain => ?_, rowEncoding_of_mask (op := .abort) rfl rfl rfl rfl⟩
  rw [exec, execAbort]
  exact checked_passes (always_passes notDrain)

/-- Settles O18: NOP has no state check and no effect; in its word every bit below the opcode byte is reserved. -/
theorem nopChangesNothing : Obligations.NopChangesNothing := by
  unfold Obligations.NopChangesNothing
  exact ⟨fun _ => rfl, rowEncoding_of_mask (op := .nop) rfl rfl rfl rfl⟩

end Sys2Proof.Machine

/-! ## The walker's step as an act on the state (R163 to R173)

The head of BITQ, the tables, CFG, EOS_SEEN and the walker's place decide what a walker step does: its act. Carrying an
act out is one of four updates. So a change of the state that the decision does not see commutes with the step. -/
namespace Sys2Proof.Machine

/-- What a walker step decides to do. -/
inductive WalkerAct where
  /-- Error entry with BIT_COUNT (R211). -/
  | error (e : ErrName)
  /-- The end of the session (R171). -/
  | finish
  /-- A codeword is completed by consuming `n` bits (R167, R168, R173). -/
  | symbol (n : Nat) (sym : Symbol)
  /-- `n` bits lead to the internal node `i`, at depth `d` (R169, R173). -/
  | descend (n : Nat) (i : NodeIdx) (d : BitVec 12)

/-- An act carried out. -/
def WalkerAct.apply : WalkerAct → State → State
  | .error e, s => walkerError e s
  | .finish, s => Machine.finish s
  | .symbol n sym, s => emitSymbol sym (consume n s)
  | .descend n i d, s => { consume n s with cur := i, depth := d }

/-- The bits that an act consumes. -/
def WalkerAct.bits : WalkerAct → Nat
  | .error _ | .finish => 0
  | .symbol n _ | .descend n _ _ => n

/-- The act of a serial step (R168, R169). -/
def serialAct (left right : NodeIdx) (s : State) : WalkerAct :=
  let nxt := if peek 1 s = [true] then right else left
  match nodeRead nxt s with
  | none => .error .unwrittenNode
  | some (.leaf sym) => .symbol 1 sym
  | some (.internal _ _) =>
    if s.depth.toNat + 1 = Config.maxCodeLen then .error .depthOverflow else .descend 1 nxt (s.depth + 1)

/-- The act of a LUT step (R173). -/
def lutAct (s : State) : WalkerAct :=
  let k := s.cfg.k.toNat
  match lutRead (BitVec.ofNat 10 (bitsToNat (peek k s))) s with
  | none | some .linvalid => .error .lutInvalid
  | some (.lleaf sym len) => if len.toNat = 0 ∨ k < len.toNat then .error .lutBadLen else .symbol len.toNat sym
  | some (.lnode i) =>
    match nodeRead i s with
    | none => .error .unwrittenNode
    | some (.leaf sym) => .symbol k sym
    | some (.internal _ _) => .descend k i (s.cfg.k.setWidth 12)

theorem serialStep_eq_apply (left right : NodeIdx) (s : State) :
    serialStep left right s = (serialAct left right s).apply s := by
  match h : nodeRead (if peek 1 s = [true] then right else left) s with
  | none => simp only [serialStep, serialAct, h, WalkerAct.apply]
  | some (.leaf sym) => simp only [serialStep, serialAct, h, WalkerAct.apply]
  | some (.internal l r) =>
    simp only [serialStep, serialAct, h, descendInternal]
    split <;> rfl

theorem lutStep_eq_apply (s : State) : lutStep s = (lutAct s).apply s := by
  match h : lutRead (BitVec.ofNat 10 (bitsToNat (peek s.cfg.k.toNat s))) s with
  | none => simp only [lutStep, lutAct, h, WalkerAct.apply]
  | some .linvalid => simp only [lutStep, lutAct, h, WalkerAct.apply]
  | some (.lleaf sym len) =>
    simp only [lutStep, lutAct, h]
    split <;> rfl
  | some (.lnode i) =>
    match node : nodeRead i s with
    | none => simp only [lutStep, lutAct, h, node, WalkerAct.apply]
    | some (.leaf sym) => simp only [lutStep, lutAct, h, node, WalkerAct.apply]
    | some (.internal l r) => simp only [lutStep, lutAct, h, node, WalkerAct.apply]

/-- A serial step is due at `Internal(left, right)`: inside a codeword, or at a boundary with the LUT off or with fewer
than K bits left after EOS (R163, R166). -/
def SerialDue (s : State) (left right : NodeIdx) : Prop :=
  (s.depth ≠ 0 ∧ nodeRead s.cur s = some (.internal left right)) ∨
  (s.depth = 0 ∧ nodeRead s.cfg.root s = some (.internal left right) ∧
    (s.cfg.lutEn = false ∨ (s.bitq.length < s.cfg.k.toNat ∧ s.eosSeen = true)))

/-- The walker of `s` has a step, and this is its act: R163 as a table. -/
inductive Acts (s : State) : WalkerAct → Prop where
  | finish (act : active s) (empty : s.bitq = []) (eos : s.eosSeen = true) (boundary : s.depth = 0) : Acts s .finish
  | truncated (act : active s) (empty : s.bitq = []) (eos : s.eosSeen = true) (inside : s.depth ≠ 0) :
      Acts s (.error .truncatedInput)
  | rootless (act : active s) (pending : s.bitq ≠ []) (boundary : s.depth = 0) (root : nodeRead s.cfg.root s = none) :
      Acts s (.error .unwrittenNode)
  | degenerate (sym : Symbol) (act : active s) (pending : s.bitq ≠ []) (boundary : s.depth = 0)
      (root : nodeRead s.cfg.root s = some (.leaf sym)) : Acts s (.symbol 1 sym)
  | lut (left right : NodeIdx) (act : active s) (pending : s.bitq ≠ []) (boundary : s.depth = 0)
      (root : nodeRead s.cfg.root s = some (.internal left right)) (lutOn : s.cfg.lutEn = true)
      (enough : s.cfg.k.toNat ≤ s.bitq.length) : Acts s (lutAct s)
  | serial (left right : NodeIdx) (act : active s) (pending : s.bitq ≠ []) (due : SerialDue s left right) :
      Acts s (serialAct left right s)

theorem Acts.active {s : State} {a : WalkerAct} (h : Acts s a) : active s := by
  cases h <;> assumption

/-- An act of the table is carried out by the walker's step. -/
theorem Acts.walkerStep {s : State} {a : WalkerAct} (h : Acts s a) : walkerStep s = some (.next (a.apply s)) := by
  have act : s.sess = .run ∨ s.sess = .drain := h.active
  cases h with
  | finish _ empty eos boundary => simp [Machine.walkerStep, act, empty, emptyStep, eos, boundary, WalkerAct.apply]
  | truncated _ empty eos inside =>
    rw [Machine.walkerStep, if_pos act, if_pos empty, emptyStep, if_pos eos, if_neg inside]; rfl
  | rootless _ pending boundary root =>
    simp [Machine.walkerStep, act, pending, boundary, boundaryStep, root, WalkerAct.apply]
  | degenerate sym _ pending boundary root =>
    simp [Machine.walkerStep, act, pending, boundary, boundaryStep, root, degenerateStep, WalkerAct.apply]
  | lut left right _ pending boundary root lutOn enough =>
    simp [Machine.walkerStep, act, pending, boundary, boundaryStep, root, lutOn, enough, lutStep_eq_apply]
  | serial left right _ pending due =>
    obtain ⟨inside, node⟩ | ⟨boundary, root, off | ⟨few, eos⟩⟩ := due
    · rw [Machine.walkerStep, if_pos act, if_neg pending, if_neg inside, insideStep, node]
      simp only [serialStep_eq_apply]
    · simp [Machine.walkerStep, act, pending, boundary, boundaryStep, root, off, serialStep_eq_apply]
    · simp [Machine.walkerStep, act, pending, boundary, boundaryStep, root, few.not_ge, eos, serialStep_eq_apply]

/-- Every step of the walker carries out an act of the table (R163). -/
theorem exists_acts {s t : State} (h : walkerStep s = some (.next t)) : ∃ a, Acts s a ∧ t = a.apply s := by
  unfold walkerStep at h
  split at h
  case isFalse => cases h
  next act =>
  split at h
  · next empty =>
    unfold emptyStep at h
    split at h
    · split at h <;> cases h
      · exact ⟨_, .finish act empty ‹_› ‹_›, rfl⟩
      · exact ⟨_, .truncated act empty ‹_› ‹_›, rfl⟩
    · cases h
  next pending =>
  split at h
  · next boundary =>
    unfold boundaryStep at h
    split at h
    · cases h; exact ⟨_, .rootless act pending boundary ‹_›, rfl⟩
    · cases h; exact ⟨_, .degenerate _ act pending boundary ‹_›, rfl⟩
    · next left right root =>
      split at h
      · split at h
        · cases h; exact ⟨_, .lut left right act pending boundary root ‹_› ‹_›, lutStep_eq_apply s⟩
        · next few =>
          split at h <;> cases h
          exact ⟨_, .serial left right act pending (.inr ⟨boundary, root, .inr ⟨Nat.lt_of_not_ge few, ‹_›⟩⟩),
            serialStep_eq_apply ..⟩
      · next off =>
        cases h
        exact ⟨_, .serial left right act pending (.inr ⟨boundary, root, .inl (Bool.eq_false_iff.mpr off)⟩),
          serialStep_eq_apply ..⟩
  · next inside =>
    unfold insideStep at h
    split at h <;> cases h
    exact ⟨_, .serial _ _ act pending (.inl ⟨inside, ‹_›⟩), serialStep_eq_apply ..⟩

/-! ### The bits that an act consumes -/

/-- Carrying an act out ends the session. -/
def WalkerAct.Ends (a : WalkerAct) : Prop := ∀ s, ¬ active (a.apply s)

theorem WalkerAct.ends_error (e : ErrName) : (WalkerAct.error e).Ends := fun s => by
  simp [WalkerAct.apply, walkerError, active]

theorem WalkerAct.ends_finish : WalkerAct.finish.Ends := fun s => by simp [WalkerAct.apply, active]

/-- A serial step consumes one bit, or it ends the session and consumes none (R168, R169). -/
theorem serialAct_bits (left right : NodeIdx) (s : State) :
    (serialAct left right s).bits = 1 ∨ ((serialAct left right s).bits = 0 ∧ (serialAct left right s).Ends) := by
  simp only [serialAct]
  split
  · exact .inr ⟨rfl, WalkerAct.ends_error _⟩
  · exact .inl rfl
  · split
    · exact .inr ⟨rfl, WalkerAct.ends_error _⟩
    · exact .inl rfl

/-- A LUT step consumes a bit or ends the session (R173). -/
theorem lutAct_advances {s : State} (pos : 0 < s.cfg.k.toNat) : 0 < (lutAct s).bits ∨ (lutAct s).Ends := by
  simp only [lutAct]
  split
  · exact .inr (WalkerAct.ends_error _)
  · exact .inr (WalkerAct.ends_error _)
  · split
    · exact .inr (WalkerAct.ends_error _)
    · exact .inl (by simp only [WalkerAct.bits]; omega)
  · split
    · exact .inr (WalkerAct.ends_error _)
    · exact .inl pos
    · exact .inl pos

/-- A LUT step consumes at most K bits (R173). -/
theorem lutAct_bits_le (s : State) : (lutAct s).bits ≤ s.cfg.k.toNat := by
  simp only [lutAct]
  split
  · exact Nat.zero_le _
  · exact Nat.zero_le _
  · split
    · exact Nat.zero_le _
    · simp only [WalkerAct.bits]; omega
  · split
    · exact Nat.zero_le _
    · exact Nat.le_refl _
    · exact Nat.le_refl _

/-- No act consumes more bits than are pending (R71). -/
theorem Acts.bits_le {s : State} {a : WalkerAct} (h : Acts s a) : a.bits ≤ s.bitq.length := by
  cases h with
  | finish | truncated | rootless => exact Nat.zero_le _
  | degenerate _ _ pending _ _ => exact List.length_pos_iff.mpr pending
  | lut _ _ _ _ _ _ _ enough => exact (lutAct_bits_le s).trans enough
  | serial left right _ pending _ =>
    have one : 0 < s.bitq.length := List.length_pos_iff.mpr pending
    obtain h | ⟨h, -⟩ := serialAct_bits left right s <;> omega

/-- LUT steps consume bits: K is not 0 where the LUT is consulted (R22). -/
def LutAdvances (s : State) : Prop :=
  ∀ left right, nodeRead s.cfg.root s = some (.internal left right) → s.cfg.lutEn = true → 0 < s.cfg.k.toNat

theorem State.Inv.lutAdvances {s : State} (h : s.Inv) : LutAdvances s :=
  fun _ _ _ lutOn => cfgLegal_pos h.cfgLegal lutOn

/-- Every act consumes a bit or ends the session (R161). -/
theorem Acts.advances {s : State} {a : WalkerAct} (h : Acts s a) (adv : LutAdvances s) : 0 < a.bits ∨ a.Ends := by
  cases h with
  | finish => exact .inr WalkerAct.ends_finish
  | truncated | rootless => exact .inr (WalkerAct.ends_error _)
  | degenerate => exact .inl Nat.one_pos
  | lut left right _ _ _ root lutOn _ => exact lutAct_advances (adv left right root lutOn)
  | serial left right _ _ _ =>
    obtain h | ⟨-, h⟩ := serialAct_bits left right s
    · exact .inl (h ▸ Nat.one_pos)
    · exact .inr h

@[simp] theorem WalkerAct.apply_bitq (a : WalkerAct) (s : State) : (a.apply s).bitq = s.bitq.drop a.bits := by
  cases a <;> simp [WalkerAct.apply, WalkerAct.bits, walkerError, emitSymbol]

/-! ### The act of a serial step -/

theorem peek_one {s : State} {b : Bool} {rest : List Bool} (bits : s.bitq = b :: rest) : peek 1 s = [b] := by
  rw [peek, bits]; rfl

section
variable {s : State} {b : Bool} {rest : List Bool} (bits : s.bitq = b :: rest) (left right : NodeIdx)
include bits

theorem serialAct_of_unwritten (node : nodeRead (if b then right else left) s = none) :
    serialAct left right s = .error .unwrittenNode := by
  simp only [serialAct, peek_one bits, List.cons.injEq, and_true, node]

theorem serialAct_of_leaf {sym : Symbol} (node : nodeRead (if b then right else left) s = some (.leaf sym)) :
    serialAct left right s = .symbol 1 sym := by
  simp only [serialAct, peek_one bits, List.cons.injEq, and_true, node]

theorem serialAct_of_internal {l r : NodeIdx} (node : nodeRead (if b then right else left) s = some (.internal l r)) :
    serialAct left right s = if s.depth.toNat + 1 = 4095 then .error .depthOverflow
      else .descend 1 (if b then right else left) (s.depth + 1) := by
  simp only [serialAct, peek_one bits, List.cons.injEq, and_true, node]; rfl

end

/-! ### The act of a LUT step -/

/-- The LUT entry of the next K bits. -/
def lutEntry (s : State) : Option LutEntry := lutRead (BitVec.ofNat 10 (bitsToNat (peek s.cfg.k.toNat s))) s

section
variable {s : State}

theorem lutAct_of_invalid (entry : lutEntry s = none ∨ lutEntry s = some .linvalid) :
    lutAct s = .error .lutInvalid := by
  unfold lutEntry at entry
  obtain entry | entry := entry <;> simp only [lutAct, entry]

theorem lutAct_of_lleaf {sym : Symbol} {len : BitVec 4} (entry : lutEntry s = some (.lleaf sym len)) :
    lutAct s = if len.toNat = 0 ∨ s.cfg.k.toNat < len.toNat then .error .lutBadLen else .symbol len.toNat sym := by
  unfold lutEntry at entry
  simp only [lutAct, entry]

variable {i : NodeIdx} (entry : lutEntry s = some (.lnode i))
include entry

theorem lutAct_of_unwritten (node : nodeRead i s = none) : lutAct s = .error .unwrittenNode := by
  unfold lutEntry at entry
  simp only [lutAct, entry, node]

theorem lutAct_of_leaf {sym : Symbol} (node : nodeRead i s = some (.leaf sym)) :
    lutAct s = .symbol s.cfg.k.toNat sym := by
  unfold lutEntry at entry
  simp only [lutAct, entry, node]

theorem lutAct_of_internal {l r : NodeIdx} (node : nodeRead i s = some (.internal l r)) :
    lutAct s = .descend s.cfg.k.toNat i (BitVec.ofNat 12 s.cfg.k.toNat) := by
  unfold lutEntry at entry
  simp only [lutAct, entry, node, BitVec.ofNat_toNat]

end

end Sys2Proof.Machine

/-! ## The walk: its steps, its end, and what commutes with it (R161, R163) -/
namespace Sys2Proof.Machine

/-- The walker goes no further: it is quiescent, or off the tree (log 9). -/
def Stuck (s : State) : Prop := ∀ t, walkerStep s ≠ some (.next t)

theorem Stuck.of_not_active {s : State} (closed : ¬ active s) : Stuck s := fun _ h =>
  let ⟨_, acts, _⟩ := exists_acts h
  closed acts.active

/-- A walker step leaves K where it was. -/
theorem LutAdvances.congr {s t : State} (h : LutAdvances s) (nodes : t.nodes = s.nodes) (cfg : t.cfg = s.cfg) :
    LutAdvances t := by
  intro left right root lutOn
  rw [nodeRead_congr nodes, cfg] at root
  rw [cfg] at lutOn ⊢
  exact h left right root lutOn

theorem LutAdvances.walkerStep {s t : State} (h : LutAdvances s) (step : walkerStep s = some (.next t)) :
    LutAdvances t := by
  obtain ⟨nodes, -, cfg, -⟩ := (walkerStep_outcome step).sameSetup
  exact h.congr nodes cfg

/-- A walker step shortens BITQ or ends the session (R161). -/
theorem walkerStep_progress {s t : State} (adv : LutAdvances s) (step : walkerStep s = some (.next t)) :
    t.bitq.length < s.bitq.length ∨ ¬ active t := by
  obtain ⟨a, acts, rfl⟩ := exists_acts step
  have enough : a.bits ≤ s.bitq.length := acts.bits_le
  obtain some | ends := acts.advances adv
  · left
    rw [WalkerAct.apply_bitq, List.length_drop]
    omega
  · exact .inr (ends s)

theorem walkFor_of_stuck {s : State} (h : Stuck s) (n : Nat) : walkFor n s = s := by
  cases n with
  | zero => rfl
  | succ n =>
    rw [walkFor]
    split
    · next t step => exact absurd step (h t)
    · rfl
    · rfl
    · rfl

theorem walk_of_stuck {s : State} (h : Stuck s) : walk s = s := walkFor_of_stuck h _

/-- With fuel for every pending bit and one step more, fuel makes no difference (R161). -/
theorem walkFor_eq_walkFor {s : State} (adv : LutAdvances s) {m n : Nat} (hm : s.bitq.length < m)
    (hn : s.bitq.length < n) : walkFor m s = walkFor n s := by
  induction m generalizing s n with
  | zero => omega
  | succ m ih =>
    by_cases h : Stuck s
    · rw [walkFor_of_stuck h, walkFor_of_stuck h]
    · obtain ⟨t, step⟩ := not_forall_not.mp h
      obtain ⟨n, rfl⟩ := Nat.exists_eq_succ_of_ne_zero (Nat.ne_zero_of_lt hn)
      rw [walkFor_succ step, walkFor_succ step]
      obtain shorter | closed := walkerStep_progress adv step
      · exact ih (adv.walkerStep step) (by omega) (by omega)
      · rw [walkFor_of_stuck (.of_not_active closed), walkFor_of_stuck (.of_not_active closed)]

/-- One step of `Walk()` (R161). -/
theorem walk_step {s t : State} (adv : LutAdvances s) (step : walkerStep s = some (.next t)) : walk s = walk t := by
  obtain shorter | closed := walkerStep_progress adv step
  · calc walk s = walkFor (s.bitq.length + 1 + 1) s := walkFor_eq_walkFor adv (by omega) (by omega)
      _ = walkFor (s.bitq.length + 1) t := walkFor_succ step _
      _ = walk t := walkFor_eq_walkFor (adv.walkerStep step) (by omega) (by omega)
  · rw [walk, walkFor_succ step, walkFor_of_stuck (.of_not_active closed), walk_of_stuck (.of_not_active closed)]

/-- What holds where the walker goes no further, and before a step if after it, holds in every state. -/
theorem walk_induction {P : (s : State) → LutAdvances s → Prop} (stuck : ∀ s adv, Stuck s → P s adv)
    (step : ∀ s t adv (h : walkerStep s = some (.next t)), P t (adv.walkerStep h) → P s adv) (s : State)
    (adv : LutAdvances s) : P s adv := by
  induction hn : s.bitq.length using Nat.strong_induction_on generalizing s with
  | _ n ih =>
    by_cases h : Stuck s
    · exact stuck s adv h
    · obtain ⟨t, ht⟩ := not_forall_not.mp h
      refine step s t adv ht ?_
      obtain shorter | closed := walkerStep_progress adv ht
      · exact ih _ (hn ▸ shorter) t (adv.walkerStep ht) rfl
      · exact stuck t (adv.walkerStep ht) (.of_not_active closed)

/-- What every walker step keeps, the walk keeps. -/
theorem walk_keeps {P : State → Prop} (keeps : ∀ s t, P s → walkerStep s = some (.next t) → P t) {s : State} (h : P s) :
    P (walk s) := by
  have (n : Nat) : P (walkFor n s) := by
    induction n generalizing s with
    | zero => exact h
    | succ n ih =>
      by_cases stuck : Stuck s
      · rwa [walkFor_of_stuck stuck]
      · obtain ⟨t, step⟩ := not_forall_not.mp stuck
        rw [walkFor_succ step]
        exact ih (keeps s t h step)
  exact this _

/-- The walk goes on until the walker goes no further (R161). -/
theorem stuck_walk {s : State} (adv : LutAdvances s) : Stuck (walk s) := by
  induction s, adv using walk_induction with
  | stuck s adv h => rwa [walk_of_stuck h]
  | step s t adv h ih => rwa [walk_step adv h]

theorem walk_walk {s : State} (adv : LutAdvances s) : walk (walk s) = walk s := walk_of_stuck (stuck_walk adv)

/-- If a step before the change `f` makes no difference to what the walk after it comes to, then `f` can be made before
the walk or after it. `C` is what the states on the way have to meet. -/
theorem walk_map {f : State → State} {C : State → Prop}
    (keeps : ∀ s t, C s → walkerStep s = some (.next t) → C t)
    (follows : ∀ s t, C s → LutAdvances s → walkerStep s = some (.next t) → walk (f s) = walk (f t))
    {s : State} (adv : LutAdvances s) (h : C s) : walk (f s) = walk (f (walk s)) := by
  induction s, adv using walk_induction with
  | stuck s adv stuck => rw [walk_of_stuck stuck]
  | step s t adv step ih =>
    rw [follows s t h adv step, walk_step adv step]
    exact ih (keeps s t h step)

/-! ### What the walker sees -/

/-- The walker of `t` sees what the walker of `s` sees. If EOS is still to come in `s`, it may see besides that EOS has
come, or more bits behind those of `s`: the acts of `s` look at neither. -/
structure SeesAs (s t : State) : Prop where
  act : active s → active t
  nodes : t.nodes = s.nodes
  lut : t.lut = s.lut
  cfg : t.cfg = s.cfg
  cur : t.cur = s.cur
  depth : t.depth = s.depth
  bits : (t.bitq = s.bitq ∧ t.eosSeen = s.eosSeen) ∨ (s.eosSeen = false ∧ s.bitq <+: t.bitq)

theorem SeesAs.pending {s t : State} (h : SeesAs s t) : s.bitq <+: t.bitq := by
  obtain ⟨same, -⟩ | ⟨-, more⟩ := h.bits
  · rw [same]
  · exact more

theorem SeesAs.peek {s t : State} (h : SeesAs s t) {n : Nat} (enough : n ≤ s.bitq.length) : peek n t = peek n s := by
  obtain ⟨more, hmore⟩ := h.pending
  rw [Machine.peek, ← hmore, List.take_append_of_le_length enough, Machine.peek]

theorem SeesAs.serialAct {s t : State} (h : SeesAs s t) (pending : s.bitq ≠ []) (left right : NodeIdx) :
    serialAct left right t = serialAct left right s := by
  simp only [Machine.serialAct, h.peek (List.length_pos_iff.mpr pending), nodeRead_congr h.nodes, h.depth]

theorem SeesAs.lutAct {s t : State} (h : SeesAs s t) (enough : s.cfg.k.toNat ≤ s.bitq.length) :
    lutAct t = lutAct s := by
  simp only [Machine.lutAct, h.cfg, h.peek enough, nodeRead_congr h.nodes, lutRead_congr h.lut]

theorem SeesAs.serialDue {s t : State} (h : SeesAs s t) {left right : NodeIdx} (due : SerialDue s left right) :
    SerialDue t left right := by
  obtain ⟨inside, node⟩ | ⟨boundary, root, off | ⟨few, eos⟩⟩ := due
  · exact .inl ⟨by rwa [h.depth], by rwa [h.cur, nodeRead_congr h.nodes]⟩
  · exact .inr ⟨by rwa [h.depth], by rwa [h.cfg, nodeRead_congr h.nodes], .inl (by rwa [h.cfg])⟩
  · obtain ⟨bitq, eosSeen⟩ | ⟨noEos, -⟩ := h.bits
    · exact .inr ⟨by rwa [h.depth], by rwa [h.cfg, nodeRead_congr h.nodes],
        .inr ⟨by rwa [bitq, h.cfg], eosSeen.trans eos⟩⟩
    · exact absurd (noEos.symm.trans eos) (by decide)

/-- What the walker does not see makes no difference to its act. -/
theorem Acts.of_seesAs {s t : State} {a : WalkerAct} (h : Acts s a) (sees : SeesAs s t) : Acts t a := by
  have act : Machine.active t := sees.act h.active
  have pending (hs : s.bitq ≠ []) : t.bitq ≠ [] := fun ht => hs (List.prefix_nil.mp (ht ▸ sees.pending))
  have atEnd (empty : s.bitq = []) (eos : s.eosSeen = true) : t.bitq = [] ∧ t.eosSeen = true := by
    obtain ⟨bitq, eosSeen⟩ | ⟨noEos, -⟩ := sees.bits
    · exact ⟨bitq.trans empty, eosSeen.trans eos⟩
    · exact absurd (noEos.symm.trans eos) (by decide)
  have root (i : Option Node) (hi : nodeRead s.cfg.root s = i) : nodeRead t.cfg.root t = i := by
    rwa [sees.cfg, nodeRead_congr sees.nodes]
  cases h with
  | finish _ empty eos boundary =>
    obtain ⟨empty, eos⟩ := atEnd empty eos
    exact .finish act empty eos (sees.depth ▸ boundary)
  | truncated _ empty eos inside =>
    obtain ⟨empty, eos⟩ := atEnd empty eos
    exact .truncated act empty eos (sees.depth ▸ inside)
  | rootless _ hs boundary unwritten => exact .rootless act (pending hs) (sees.depth ▸ boundary) (root _ unwritten)
  | degenerate sym _ hs boundary leaf => exact .degenerate sym act (pending hs) (sees.depth ▸ boundary) (root _ leaf)
  | lut left right _ hs boundary internal lutOn enough =>
    rw [← sees.lutAct enough]
    exact .lut left right act (pending hs) (sees.depth ▸ boundary) (root _ internal) (sees.cfg ▸ lutOn)
      (sees.cfg ▸ enough.trans sees.pending.length_le)
  | serial left right _ hs due =>
    rw [← sees.serialAct hs]
    exact .serial left right act (pending hs) (sees.serialDue due)

end Sys2Proof.Machine

/-! ## What can be done before the walk or after it (R160, R254) -/
namespace Sys2Proof.Machine

theorem active.alive {s : State} (act : active s) : s.sess ≠ .error := by
  obtain h | h := act <;> simp [h]

/-- An error of the walker is error entry with BIT_COUNT (R210, R211). -/
theorem apply_error_of_active {s : State} (act : active s) (e : ErrName) :
    (WalkerAct.error e).apply s = { s with
      errCode := e.code, errInfo := s.bitCount, sess := .error, outq := s.outq ++ [.err e.code] } := by
  rw [WalkerAct.apply, walkerError, raise_eq, if_neg act.alive]

@[simp] theorem WalkerAct.apply_eosSeen (a : WalkerAct) (s : State) : (a.apply s).eosSeen = s.eosSeen := by
  cases a <;> simp [WalkerAct.apply, walkerError, emitSymbol]

@[simp] theorem WalkerAct.apply_toOutside (a : WalkerAct) (s : State) : (a.apply s).toOutside = s.toOutside := by
  cases a with
  | error e =>
    simp only [WalkerAct.apply, walkerError, raise_eq]
    split <;> rfl
  | finish | symbol | descend => rfl

theorem walkerStep_eosSeen {s t : State} (step : walkerStep s = some (.next t)) : t.eosSeen = s.eosSeen := by
  obtain ⟨a, -, rfl⟩ := exists_acts step
  exact a.apply_eosSeen s

theorem walk_eosSeen (s : State) : (walk s).eosSeen = s.eosSeen :=
  walk_keeps (P := fun t => t.eosSeen = s.eosSeen) (fun _ _ h step => (walkerStep_eosSeen step).trans h) rfl

theorem walkerStep_toOutside {s t : State} (step : walkerStep s = some (.next t)) : t.toOutside = s.toOutside := by
  obtain ⟨a, -, rfl⟩ := exists_acts step
  exact a.apply_toOutside s

theorem lutAdvances_walk {s : State} (adv : LutAdvances s) : LutAdvances (walk s) :=
  walk_keeps (fun _ _ adv step => adv.walkerStep step) adv

/-! ### More bits -/

theorem Acts.apply_pushBits {s : State} {a : WalkerAct} (h : Acts s a) (bs : List Bool) :
    a.apply (pushBits bs s) = pushBits bs (a.apply s) := by
  have drop : (s.bitq ++ bs).drop a.bits = s.bitq.drop a.bits ++ bs := List.drop_append_of_le_length h.bits_le
  cases a with
  | error e => rw [apply_error_of_active h.active, apply_error_of_active (s := pushBits bs s) h.active]; rfl
  | finish => rfl
  | symbol n sym | descend n i d =>
    simp only [WalkerAct.bits] at drop
    simp [WalkerAct.apply, emitSymbol, emit, consume, pushBits, drop]

theorem seesAs_pushBits {s : State} (noEos : s.eosSeen = false) (bs : List Bool) : SeesAs s (pushBits bs s) :=
  { act := id, nodes := rfl, lut := rfl, cfg := rfl, cur := rfl, depth := rfl,
    bits := .inr ⟨noEos, List.prefix_append ..⟩ }

/-- As long as EOS is to come, bits can be appended after the walk over the bits before them, or before it. -/
theorem walk_pushBits {s : State} (adv : LutAdvances s) (noEos : s.eosSeen = false) (bs : List Bool) :
    walk (pushBits bs s) = walk (pushBits bs (walk s)) := by
  refine walk_map (C := fun s => s.eosSeen = false) (fun s t h step => (walkerStep_eosSeen step).trans h) ?_ adv noEos
  intro s t noEos adv step
  obtain ⟨a, acts, rfl⟩ := exists_acts step
  rw [← acts.apply_pushBits]
  exact walk_step (adv.congr rfl rfl) (acts.of_seesAs (seesAs_pushBits noEos bs)).walkerStep

/-! ### The end of the bits -/

/-- EOS_SEEN is set, and RUN becomes DRAIN: EOS, where it may also come after the session has ended. -/
def seeEos (s : State) : State := { s with eosSeen := true, sess := if s.sess = .run then .drain else s.sess }

theorem seeEos_of_run {s : State} (run : s.sess = .run) : seeEos s = markEos s := by rw [seeEos, if_pos run, markEos]

theorem seeEos_of_not_run {s : State} (notRun : s.sess ≠ .run) : seeEos s = { s with eosSeen := true } := by
  rw [seeEos, if_neg notRun]

theorem active_seeEos {s : State} (act : active s) : active (seeEos s) := by
  obtain h | h := act
  · exact .inr (if_pos h)
  · exact .inr (by simp [seeEos, h])

theorem Acts.apply_seeEos {s : State} {a : WalkerAct} (h : Acts s a) : a.apply (seeEos s) = seeEos (a.apply s) := by
  cases a with
  | error e => rw [apply_error_of_active h.active, apply_error_of_active (active_seeEos h.active)]; rfl
  | finish => rfl
  | symbol | descend => rfl

theorem seesAs_seeEos {s : State} (noEos : s.eosSeen = false) : SeesAs s (seeEos s) :=
  { act := active_seeEos, nodes := rfl, lut := rfl, cfg := rfl, cur := rfl, depth := rfl,
    bits := .inr ⟨noEos, List.prefix_refl _⟩ }

/-- The walk over the pending bits can come before EOS or after it. -/
theorem walk_seeEos {s : State} (adv : LutAdvances s) (noEos : s.eosSeen = false) :
    walk (seeEos s) = walk (seeEos (walk s)) := by
  refine walk_map (C := fun s => s.eosSeen = false) (fun s t h step => (walkerStep_eosSeen step).trans h) ?_ adv noEos
  intro s t noEos adv step
  obtain ⟨a, acts, rfl⟩ := exists_acts step
  rw [← acts.apply_seeEos]
  exact walk_step (adv.congr rfl rfl) (acts.of_seesAs (seesAs_seeEos noEos)).walkerStep

/-! ### The host's side, and takes -/

theorem observed_emit (r : Record) (s : State) : (emit r s).observed = (emit r s.observed).observed := by
  simp [State.observed, emit]

theorem observed_raise (e : ErrName) (info : Word) (s : State) :
    (raise e info s).observed = (raise e info s.observed).observed := by
  have sess : s.observed.sess = s.sess := rfl
  simp only [raise, sess]
  split
  · simp [State.observed]
  · simp [State.observed, emit]

theorem WalkerAct.observed_apply (a : WalkerAct) (s : State) :
    (a.apply s).observed = (a.apply s.observed).observed := by
  cases a with
  | error e => exact observed_raise e s.bitCount s
  | finish => exact observed_emit _ { s with sess := .done }
  | symbol n sym => simp [WalkerAct.apply, emitSymbol, State.observed, emit, consume]
  | descend n i d => simp [WalkerAct.apply, State.observed, consume]

theorem seesAs_of_observed_eq {s t : State} (h : s.observed = t.observed) : SeesAs s t :=
  have sess : s.sess = t.sess := congrArg (·.sess) h
  { act := by simp only [active, sess]; exact id
    nodes := (congrArg (·.nodes) h).symm, lut := (congrArg (·.lut) h).symm, cfg := (congrArg (·.cfg) h).symm
    cur := (congrArg (·.cur) h).symm, depth := (congrArg (·.depth) h).symm
    bits := .inl ⟨(congrArg (·.bitq) h).symm, (congrArg (·.eosSeen) h).symm⟩ }

theorem Stuck.of_observed_eq {s t : State} (h : Stuck s) (eq : s.observed = t.observed) : Stuck t := fun _ step =>
  let ⟨_, acts, _⟩ := exists_acts step
  h _ (acts.of_seesAs (seesAs_of_observed_eq eq.symm)).walkerStep

/-- The walk does not depend on the host's side, nor on how many of the records are taken (R160). -/
theorem walk_observed {s t : State} (adv : LutAdvances s) (eq : s.observed = t.observed) :
    (walk s).observed = (walk t).observed := by
  induction s, adv using walk_induction generalizing t with
  | stuck s adv stuck => rwa [walk_of_stuck stuck, walk_of_stuck (stuck.of_observed_eq eq)]
  | step s u adv step ih =>
    obtain ⟨a, acts, rfl⟩ := exists_acts step
    have sees : SeesAs s t := seesAs_of_observed_eq eq
    rw [walk_step adv step, walk_step (adv.congr sees.nodes sees.cfg) (acts.of_seesAs sees).walkerStep]
    exact ih (by rw [a.observed_apply s, eq, ← a.observed_apply t])

end Sys2Proof.Machine

/-! ## Quiescence (R161, R162, R164) -/
namespace Sys2Proof.Machine

theorem active_or_closed (s : State) : active s ∨ s.sess = .idle ∨ s.sess = .done ∨ s.sess = .error := by
  cases h : s.sess <;> simp [active, h]

theorem quiescent_iff {s : State} : quiescent s = true ↔ walkerStep s = none := Option.isNone_iff_eq_none

theorem Stuck.of_none {s : State} (h : walkerStep s = none) : Stuck s := fun t step => by rw [h] at step; cases step

/-- In a state that meets the invariant the walker stops only at quiescence (R35). -/
theorem Stuck.eq_none {s : State} (h : Stuck s) (inv : s.Inv) : walkerStep s = none := by
  match hs : walkerStep s with
  | none => rfl
  | some r =>
    obtain ⟨t, rfl⟩ := answersNext_walkerStep inv r hs
    exact absurd hs (h t)

/-- With EOS still to come the walker waits for bits: it has none, or at a boundary too few for the LUT (R163, R166). -/
def AwaitsBits (s : State) : Prop :=
  s.eosSeen = false ∧ (s.bitq = [] ∨
    (s.depth = 0 ∧ (∃ left right, nodeRead s.cfg.root s = some (.internal left right)) ∧ s.cfg.lutEn = true ∧
      s.bitq.length < s.cfg.k.toNat))

theorem AwaitsBits.stuck {s : State} (h : AwaitsBits s) : Stuck s := by
  obtain ⟨noEos, few⟩ := h
  intro t step
  obtain ⟨a, acts, -⟩ := exists_acts step
  have noEnd : s.eosSeen ≠ true := by simp [noEos]
  obtain empty | ⟨boundary, ⟨left, right, root⟩, lutOn, few⟩ := few
  · cases acts with
    | finish _ _ eos | truncated _ _ eos => exact noEnd eos
    | rootless _ pending | degenerate _ _ pending | lut _ _ _ pending | serial _ _ _ pending => exact pending empty
  · cases acts with
    | finish _ _ eos | truncated _ _ eos => exact noEnd eos
    | rootless _ _ _ unwritten => simp [root] at unwritten
    | degenerate _ _ _ _ leaf => simp [root] at leaf
    | lut _ _ _ _ _ _ _ enough => omega
    | serial _ _ _ _ due =>
      obtain ⟨inside, -⟩ | ⟨-, -, off | ⟨-, eos⟩⟩ := due
      · exact inside boundary
      · simp [lutOn] at off
      · exact noEnd eos

/-- In an open session the walker acts or waits for bits. -/
theorem acts_or_awaitsBits {s : State} (inv : s.Inv) (act : active s) : (∃ a, Acts s a) ∨ AwaitsBits s := by
  by_cases empty : s.bitq = []
  · cases eos : s.eosSeen with
    | false => exact .inr ⟨eos, .inl empty⟩
    | true =>
      by_cases boundary : s.depth = 0
      · exact .inl ⟨_, .finish act empty eos boundary⟩
      · exact .inl ⟨_, .truncated act empty eos boundary⟩
  by_cases boundary : s.depth = 0
  · match root : nodeRead s.cfg.root s with
    | none => exact .inl ⟨_, .rootless act empty boundary root⟩
    | some (.leaf sym) => exact .inl ⟨_, .degenerate sym act empty boundary root⟩
    | some (.internal left right) =>
      cases lutOn : s.cfg.lutEn with
      | false => exact .inl ⟨_, .serial left right act empty (.inr ⟨boundary, root, .inl lutOn⟩)⟩
      | true =>
        by_cases enough : s.cfg.k.toNat ≤ s.bitq.length
        · exact .inl ⟨_, .lut left right act empty boundary root lutOn enough⟩
        have few : s.bitq.length < s.cfg.k.toNat := Nat.lt_of_not_ge enough
        cases eos : s.eosSeen with
        | false => exact .inr ⟨eos, .inr ⟨boundary, ⟨left, right, root⟩, lutOn, few⟩⟩
        | true => exact .inl ⟨_, .serial left right act empty (.inr ⟨boundary, root, .inr ⟨few, eos⟩⟩)⟩
  · obtain ⟨left, right, node⟩ := inv.inside act boundary
    exact .inl ⟨_, .serial left right act empty (.inl ⟨boundary, node⟩)⟩

/-- Settles O30: outside a session no act is possible, and in one the walker acts unless it waits for bits. -/
theorem quiescenceIsThreeCases : Obligations.QuiescenceIsThreeCases := by
  unfold Obligations.QuiescenceIsThreeCases
  intro s inv
  rw [quiescent_iff]
  constructor
  · intro quiet
    obtain act | closed := active_or_closed s
    · obtain ⟨a, acts⟩ | ⟨noEos, few⟩ := acts_or_awaitsBits inv act
      · exact absurd acts.walkerStep (Stuck.of_none quiet _)
      · have run : s.sess = .run := act.resolve_right fun drain => by simp [inv.eosInDrain drain] at noEos
        by_cases empty : s.bitq = []
        · exact .inr (.inl ⟨run, noEos, empty⟩)
        · obtain ⟨boundary, root, lutOn, few⟩ := few.resolve_left empty
          exact .inr (.inr ⟨run, noEos, boundary, root, lutOn, List.length_pos_iff.mpr empty, few⟩)
    · exact .inl closed
  · rintro (closed | ⟨-, noEos, empty⟩ | ⟨-, noEos, boundary, root, lutOn, -, few⟩)
    · exact walkerStep_of_closed (by obtain h | h | h := closed <;> simp [h])
    · exact (AwaitsBits.stuck ⟨noEos, .inl empty⟩).eq_none inv
    · exact (AwaitsBits.stuck ⟨noEos, .inr ⟨boundary, root, lutOn, few⟩⟩).eq_none inv

/-! ### The walk ends (R161, R162) -/

theorem walk_keeps_inv {s : State} (inv : s.Inv) : (walk s).Inv :=
  walk_keeps (fun _ _ inv step => walkerStep_keeps_inv inv step) inv

theorem quiescent_walk {s : State} (inv : s.Inv) : quiescent (walk s) = true :=
  quiescent_iff.mpr ((stuck_walk inv.lutAdvances).eq_none (walk_keeps_inv inv))

/-- Settles O31: a step shortens BITQ or ends the session, so the fuel is enough, and the walk stops only at
quiescence. -/
theorem walkReachesQuiescence : Obligations.WalkReachesQuiescence := by
  unfold Obligations.WalkReachesQuiescence
  intro s inv
  refine ⟨fun t step => ?_, fun n enough => walkFor_eq_walkFor inv.lutAdvances enough (Nat.lt_succ_self _),
    quiescent_walk inv⟩
  obtain shorter | closed := walkerStep_progress inv.lutAdvances step
  · exact .inl shorter
  · exact .inr ⟨closed, (Stuck.of_not_active closed).eq_none (walkerStep_keeps_inv inv step)⟩

/-- In DRAIN the walker is not quiescent (R162). -/
theorem not_drain_of_quiescent {s : State} (inv : s.Inv) (quiet : quiescent s = true) : s.sess ≠ .drain := by
  intro drain
  obtain ⟨a, acts⟩ | ⟨noEos, -⟩ := acts_or_awaitsBits inv (.inr drain)
  · exact Stuck.of_none (quiescent_iff.mp quiet) _ acts.walkerStep
  · simp [inv.eosInDrain drain] at noEos

/-- A walker step leaves the session open, or ends it in DONE or ERROR. -/
theorem walkerStep_sess {s t : State} (step : walkerStep s = some (.next t)) :
    t.sess = s.sess ∨ (t.sess = .done ∧ s.eosSeen = true) ∨ t.sess = .error := by
  cases walkerStep_outcome step with
  | error => exact .inr (.inr (raise_sess ..))
  | finish _ eos _ => exact .inr (.inl ⟨rfl, eos⟩)
  | symbol | descend => exact .inl rfl

/-- The walk over a session's last bits ends it (R162). -/
theorem walk_sess_of_drain {s : State} (inv : s.Inv) (drain : s.sess = .drain) :
    (walk s).sess = .done ∨ (walk s).sess = .error := by
  have ends : (walk s).sess = .drain ∨ (walk s).sess = .done ∨ (walk s).sess = .error := by
    refine walk_keeps (P := fun s => s.sess = .drain ∨ s.sess = .done ∨ s.sess = .error) (fun s t h step => ?_)
      (.inl drain)
    obtain same | ⟨done, -⟩ | error := walkerStep_sess step
    · rwa [same]
    · exact .inr (.inl done)
    · exact .inr (.inr error)
  exact ends.resolve_left (not_drain_of_quiescent (walk_keeps_inv inv) (quiescent_walk inv))

/-- The commands that may overlap the walker (R254, log 3). -/
theorem mayOverlap_iff {w : Word} {s : State} :
    mayOverlap w s = true ↔ decode w = .ok .nop ∨
      (((∃ c d, decode w = .ok (.pushb c d)) ∨ decode w = .ok .eos) ∧ s.sess = .run ∧ (walk s).sess = .run) := by
  unfold mayOverlap
  generalize decode w = d
  generalize (walk s).sess = sess
  match d with
  | .ok .nop => simp
  | .ok (.pushb _ _) => simp
  | .ok .eos => simp
  | .error _ => simp
  | .ok i => cases i <;> simp

/-- In DRAIN no command but a NOP can have its effect (R162, R254). -/
theorem held_of_drain {w : Word} {s : State} (inv : s.Inv) (drain : s.sess = .drain) (notNop : decode w ≠ .ok .nop) :
    ¬ (quiescent s = true ∨ mayOverlap w s = true) := by
  rintro (quiet | overlap)
  · exact not_drain_of_quiescent inv quiet drain
  · obtain nop | ⟨-, run, -⟩ := mayOverlap_iff.mp overlap
    · exact notNop nop
    · simp [drain] at run

/-- In DRAIN, while a command other than NOP waits, a move that is no reset leaves the accepted words as they are. -/
theorem Move.accepted_of_drain {s t : State} (move : Move s t) (inv : s.Inv) (drain : s.sess = .drain) {w : Word}
    {rest : List Word} (head : s.accepted = w :: rest) (notNop : decode w ≠ .ok .nop) (noReset : ¬ ByReset s t) :
    t.accepted = s.accepted := by
  cases move with
  | wait | refuse | status => rfl
  | walker _ step _ => exact congrArg (·.accepted) (walkerStep_toOutside step)
  | command v rest' _ head' when _ _ =>
    obtain ⟨rfl, rfl⟩ := List.cons.inj (head.symm.trans head')
    exact absurd when (held_of_drain (s := { s with accepted := rest }) inv.congr drain notNop)
  | accept v _ _ ready =>
    have held : commandMove w s = none := if_neg (by simpa using held_of_drain inv drain notNop)
    simp [cmdReady, portOpen, head, noneWaits, held] at ready
  | take rest' _ =>
    unfold takeRecord
    split <;> rfl
  | lower more rest' ahead => exact absurd (.inr ⟨more, rest', ahead, rfl⟩) noReset
  | reset low => exact absurd (.inl low) noReset

/-- Settles O32: the walk ends the session, and of the moves that are no reset only a NOP's effect and an open port
change the accepted words. -/
theorem drainIsNeverSeenByCommand : Obligations.DrainIsNeverSeenByCommand := by
  unfold Obligations.DrainIsNeverSeenByCommand
  intro s inv drain
  refine ⟨walk_sess_of_drain inv drain, fun w rest t head notNop step noReset => ?_⟩
  obtain ⟨m, n, move, rfl⟩ := step_move step
  exact move.accepted_of_drain inv drain head notNop noReset

end Sys2Proof.Machine

/-! ## The block comes out as the loop (R160, R249, R250, R254)

A move of the host, a take and a walker step leave what the walk comes to as it is; the effect of a command, at
quiescence or as an overlap, comes to what the command comes to after the walk. -/
namespace Sys2Proof.Machine

/-- What is observed of a next state. -/
def observedOf : Result → Option State
  | .next t => some t.observed
  | .fault _ | .refused _ => none

theorem observed_observed (s : State) : s.observed.observed = s.observed := by simp [State.observed]

/-- What is observed of a command's effect depends on what is observed before it. -/
theorem exec_observed (i : Instr) (s : State) : observedOf (exec i s) = observedOf (exec i s.observed) := by
  have check {c : CommandClass} {j : Instr} {body : State → State}
      (hb : (body s).observed = (body s.observed).observed) :
      observedOf (checked c j body s) = observedOf (checked c j body s.observed) := by
    have sess : s.observed.sess = s.sess := rfl
    simp only [checked, sess]
    cases checkState c s.sess with
    | passes => exact congrArg some hb
    | wrongState => exact congrArg some (observed_raise ..)
    | discarded => exact congrArg some (observed_observed s).symm
    | held => exact congrArg some (observed_observed s).symm
  cases i <;> simp only [exec, execNop, execSetnp, execWni, execWnl, execSetlp, execWll, execWln, execWlx, execCfg,
    execStart, execPushb, execEos, execAbort]
  case nop => exact congrArg some (observed_observed s).symm
  case cfg =>
    refine check ?_
    split
    · exact (observed_observed { s with cfg := _ }).symm
    · exact observed_raise ..
  case pushb cnt data =>
    split
    · exact check (observed_observed (pushBits (streamBits cnt.toNat data) s)).symm
    · exact congrArg some (observed_raise ..)
  case setnp addr => exact check (observed_observed { s with np := addr }).symm
  case setlp idx => exact check (observed_observed { s with lp := idx }).symm
  all_goals exact check (observed_observed _).symm

/-- Two states of which the same is observed come to the same by executing a word (R97). -/
theorem execute_observed {w : Word} {s t s' t' : State} (eq : s.observed = t.observed) (hs : execute w s = .next s')
    (ht : execute w t = .next t') : s'.observed = t'.observed := by
  have same : observedOf (execute w s) = observedOf (execute w t) := by
    unfold execute
    split
    · rw [exec_observed, eq, ← exec_observed]
    · exact congrArg some (by rw [observed_raise, eq, ← observed_raise])
  rw [hs, ht] at same
  exact Option.some.inj same

/-- A command that is not held leaves the host's side as it is. -/
theorem execute_toOutside {w : Word} {s t : State} (h : execute w s = .next t)
    (free : s.sess ≠ .drain ∨ decode w = .ok .nop) : t.toOutside = s.toOutside := by
  obtain notDrain | nop := free
  · obtain ⟨i, -, effect⟩ | rfl := execute_effect h
    · cases effect with
      | held drain => exact absurd drain notDrain
      | error e _ alive => rw [raise_eq, if_neg alive]
      | nothing | setnp | writeNode | setlp | writeLut | cfg | start | pushb | eos | abort => rfl
    · rw [raise_eq]
      split <;> rfl
  · rw [execute, nop] at h
    exact congrArg (·.toOutside) (Host.Outcome.next.inj h).symm

/-- Where a command may have its effect now, it is a NOP or the session is not in DRAIN (R162). -/
theorem free_of_when {w : Word} {s : State} (inv : s.Inv) (when : quiescent s = true ∨ mayOverlap w s = true) :
    s.sess ≠ .drain ∨ decode w = .ok .nop := by
  by_contra h
  obtain ⟨drain, notNop⟩ := not_or.mp h
  exact held_of_drain inv (Decidable.not_not.mp drain) notNop when

/-- A PUSHB that decodes appends its bits in RUN (R143). -/
theorem execute_pushb {w : Word} {c : BitVec 5} {d : BitVec 16} (h : decode w = .ok (.pushb c d)) {s : State}
    (run : s.sess = .run) : execute w s = .next (pushBits (streamBits c.toNat d) s) := by
  obtain ⟨-, wf⟩ := encodeOfDecode w _ h
  rw [execute, h]
  exact (exec_pushb_of_ok wf d s).trans (checked_passes (inside_passes run))

/-- EOS in RUN marks the end of the bits (R144). -/
theorem execute_eos {w : Word} (h : decode w = .ok .eos) {s : State} (run : s.sess = .run) :
    execute w s = .next (markEos s) := by
  rw [execute, h]
  exact checked_passes (inside_passes run)

/-- The effect of a command, now or after the walk, comes to the same (R160, R254). -/
theorem effect_before_walk {w : Word} {s t : State} (inv : s.Inv) (when : quiescent s = true ∨ mayOverlap w s = true)
    (h : execute w s = .next t) : ∃ u, execute w (walk s) = .next u ∧ walk t = walk u := by
  obtain quiet | overlap := when
  · exact ⟨t, by rwa [walk_of_stuck (.of_none (quiescent_iff.mp quiet))], rfl⟩
  obtain nop | ⟨⟨c, d, pushb⟩ | eos, run, walkRun⟩ := mayOverlap_iff.mp overlap
  · rw [execute, nop] at h
    obtain rfl := Host.Outcome.next.inj h
    exact ⟨walk s, by rw [execute, nop]; rfl, (walk_walk inv.lutAdvances).symm⟩
  · obtain rfl := Host.Outcome.next.inj ((execute_pushb pushb run).symm.trans h)
    exact ⟨_, execute_pushb pushb walkRun, walk_pushBits inv.lutAdvances (inv.eosInRun run) _⟩
  · obtain rfl := Host.Outcome.next.inj ((execute_eos eos run).symm.trans h)
    refine ⟨_, execute_eos eos walkRun, ?_⟩
    rw [← seeEos_of_run run, ← seeEos_of_run walkRun]
    exact walk_seeEos inv.lutAdvances (inv.eosInRun run)

/-- What a step that is no reset comes to, by R160's loop: the walk as it was, or the oldest accepted command first. -/
def MatchesLoop (s t : State) : Prop :=
  ((walk t).observed = (walk s).observed ∧ commandsAhead t = commandsAhead s) ∨
  (∃ w u, s.accepted = w :: t.accepted ∧ t.agenda = s.agenda ∧ execute w (walk s) = .next u ∧
    (walk t).observed = (walk u).observed)

/-- A move that changes neither what is observed nor the commands ahead matches the loop. -/
theorem MatchesLoop.of_observed {s t : State} (inv : s.Inv) (eq : t.observed = s.observed)
    (ahead : commandsAhead t = commandsAhead s) : MatchesLoop s t :=
  .inl ⟨(walk_observed inv.lutAdvances eq.symm).symm, ahead⟩

theorem observed_takeRecord (s : State) : (takeRecord s).observed = s.observed := by
  have stream := takeRecord_stream s
  unfold takeRecord at stream ⊢
  split
  · rfl
  · simp_all [State.observed]

theorem takeRecord_agenda (s : State) : (takeRecord s).agenda = s.agenda := by
  unfold takeRecord
  split <;> rfl

theorem takeRecord_accepted (s : State) : (takeRecord s).accepted = s.accepted := by
  unfold takeRecord
  split <;> rfl

theorem Move.matchesLoop {s t : State} (move : Move s t) (inv : s.Inv) (noReset : ¬ ByReset s t) : MatchesLoop s t := by
  cases move with
  | wait | refuse => exact .of_observed inv rfl rfl
  | walker _ step _ =>
    have outside := walkerStep_toOutside step
    exact .inl ⟨by rw [walk_step inv.lutAdvances step], by simp only [commandsAhead, outside]⟩
  | command w rest _ head when h _ =>
    have inv' : State.Inv { s with accepted := rest } := inv.congr
    have outside := execute_toOutside h (free_of_when inv' when)
    obtain ⟨u', hu', walked⟩ := effect_before_walk inv' when h
    obtain ⟨u, hu⟩ := execute_next w (walk s)
    have same : u'.observed = u.observed :=
      execute_observed (walk_observed inv'.lutAdvances (t := s) rfl) hu' hu
    have adv : LutAdvances u' := (execute_keeps_inv (walk_keeps_inv inv') hu').lutAdvances
    exact .inr ⟨w, u, by rw [head, outside], by rw [outside], hu, walked ▸ walk_observed adv same⟩
  | accept w rest head => exact .of_observed inv rfl (by simp [commandsAhead, head, offersAhead])
  | take rest head =>
    refine .of_observed inv (observed_takeRecord { s with agenda := rest }) ?_
    simp [commandsAhead, takeRecord_agenda, takeRecord_accepted, head, offersAhead]
  | status a rest head => exact .of_observed inv rfl (by simp [commandsAhead, head, offersAhead])
  | lower more rest ahead => exact absurd (.inr ⟨more, rest, ahead, rfl⟩) noReset
  | reset low => exact absurd (.inl low) noReset

/-- Free choices counted make no difference. -/
theorem MatchesLoop.draws {s t : State} (h : MatchesLoop s t) (inv : t.Inv) (n : Nat) :
    MatchesLoop s { t with draws := n } := by
  have same : (walk { t with draws := n }).observed = (walk t).observed :=
    (walk_observed inv.lutAdvances (t := { t with draws := n }) rfl).symm
  obtain ⟨walked, ahead⟩ | ⟨w, u, head, agenda, hu, walked⟩ := h
  · exact .inl ⟨same.trans walked, ahead⟩
  · exact .inr ⟨w, u, head, agenda, hu, same.trans walked⟩

/-- Settles O53, move by move. -/
theorem stepMatchesLoop : Obligations.StepMatchesLoop := by
  unfold Obligations.StepMatchesLoop
  intro s t inv step noReset
  obtain ⟨m, n, move, rfl⟩ := step_move step
  exact (move.matchesLoop inv noReset).draws (move.keeps_inv inv) _

end Sys2Proof.Machine

/-! ## Sessions, whatever their chunks (R176 to R178)

Feeding bits by PUSHB and NOP, with a walk after each, comes to the walk over all of the bits; and EOS can come before
that walk or after it. -/
namespace Sys2Proof.Machine

theorem pushBits_nil (s : State) : pushBits [] s = s := by rw [pushBits, List.append_nil]

theorem pushBits_pushBits (bs cs : List Bool) (s : State) : pushBits cs (pushBits bs s) = pushBits (bs ++ cs) s := by
  simp [pushBits]

/-- A feeding command is a NOP or a PUSHB with a legal count. -/
theorem feeds_iff {i : Instr} : feeds i = true ↔ i = .nop ∨ ∃ c d, i = .pushb c d ∧ pushCountOk c = true := by
  cases i <;> simp [feeds]

theorem allFeed_cons {i : Instr} {is : List Instr} :
    allFeed (i :: is) = true ↔ feeds i = true ∧ allFeed is = true := by
  simp [allFeed]

/-- A feeding command in RUN appends the bits it carries. -/
theorem exec_feeds_of_run {i : Instr} (hi : feeds i = true) {s : State} (run : s.sess = .run) :
    exec i s = .next (pushBits (carried i) s) := by
  obtain rfl | ⟨c, d, rfl, ok⟩ := feeds_iff.mp hi
  · rw [carried, pushBits_nil]; rfl
  · exact (exec_pushb_of_ok ok d s).trans (checked_passes (inside_passes run))

/-- A feeding command in ERROR does nothing (R212). -/
theorem exec_feeds_of_error {i : Instr} (hi : feeds i = true) {s : State} (error : s.sess = .error) :
    exec i s = .next s := by
  obtain rfl | ⟨c, d, rfl, ok⟩ := feeds_iff.mp hi
  · rfl
  · exact (exec_pushb_of_ok ok d s).trans (checked_inside_of_error error)

theorem walk_of_error {s : State} (error : s.sess = .error) : walk s = s :=
  walk_of_stuck (.of_not_active fun act => act.alive error)

theorem loopCommands_cons {i : Instr} {is : List Instr} {s t : State} (h : exec i s = .next t) :
    loopCommands (i :: is) s = loopCommands is (walk t) := by
  rw [loopCommands, h]

/-- In ERROR the rest of a session does nothing (R212). -/
theorem loopCommands_feed_of_error {feed : List Instr} (hf : allFeed feed = true) {s : State}
    (error : s.sess = .error) : loopCommands (feed ++ [.eos]) s = .next s := by
  induction feed with
  | nil =>
    have eos : exec .eos s = .next s := checked_inside_of_error error
    exact (loopCommands_cons eos).trans (congrArg _ (walk_of_error error))
  | cons i is ih =>
    obtain ⟨hi, his⟩ := allFeed_cons.mp hf
    rw [List.cons_append, loopCommands_cons (exec_feeds_of_error hi error), walk_of_error error]
    exact ih his

/-- Before EOS the walk leaves the session in RUN, or in ERROR. -/
theorem walk_sess_of_run {s : State} (run : s.sess = .run) (noEos : s.eosSeen = false) :
    (walk s).sess = .run ∨ (walk s).sess = .error := by
  have keeps : (walk s).eosSeen = false ∧ ((walk s).sess = .run ∨ (walk s).sess = .error) := by
    refine walk_keeps (P := fun s => s.eosSeen = false ∧ (s.sess = .run ∨ s.sess = .error))
      (fun s t ⟨noEos, going⟩ step => ?_) ⟨noEos, .inl run⟩
    refine ⟨(walkerStep_eosSeen step).trans noEos, ?_⟩
    obtain same | ⟨-, eos⟩ | error := walkerStep_sess step
    · rwa [same]
    · simp [noEos] at eos
    · exact .inr error
  exact keeps.2

/-- What EOS and its walk make of a session after the walk over its bits. -/
def sessionEnd (w : State) : State := if w.sess = .run then walk (markEos w) else w

/-- Feeding commands and EOS come to the walk over all of their bits and EOS after it; only the bits that stand in BITQ
after an error depend on the chunks. -/
theorem loopCommands_feed {feed : List Instr} (hf : allFeed feed = true) {s : State} (adv : LutAdvances s)
    (run : s.sess = .run) (noEos : s.eosSeen = false) (still : walk s = s) :
    ∃ t, loopCommands (feed ++ [.eos]) s = .next t ∧
      t.exceptBitq = (sessionEnd (walk (pushBits (carriedBits feed) s))).exceptBitq := by
  induction feed generalizing s with
  | nil =>
    have eos : exec .eos s = .next (markEos s) := checked_passes (inside_passes run)
    refine ⟨walk (markEos s), loopCommands_cons eos, ?_⟩
    rw [show carriedBits [] = [] from rfl, pushBits_nil, still, sessionEnd, if_pos run]
  | cons i is ih =>
    obtain ⟨hi, his⟩ := allFeed_cons.mp hf
    have adv' : LutAdvances (pushBits (carried i) s) := adv.congr rfl rfl
    have split : walk (pushBits (carriedBits (i :: is)) s) =
        walk (pushBits (carriedBits is) (walk (pushBits (carried i) s))) := by
      rw [← walk_pushBits adv' noEos, pushBits_pushBits]; rfl
    rw [List.cons_append, loopCommands_cons (exec_feeds_of_run hi run), split]
    obtain run' | error := walk_sess_of_run (s := pushBits (carried i) s) run noEos
    · exact ih his (lutAdvances_walk adv') run' ((walk_eosSeen _).trans noEos) (walk_walk adv')
    · refine ⟨_, loopCommands_feed_of_error his error, ?_⟩
      have error' : (pushBits (carriedBits is) (walk (pushBits (carried i) s))).sess = .error := error
      rw [walk_of_error error', sessionEnd, if_neg (by simp [error])]
      rfl

/-- After START the walker waits for bits. -/
theorem walk_openSession (s : State) : walk (openSession s) = openSession s :=
  walk_of_stuck (AwaitsBits.stuck ⟨rfl, .inl rfl⟩)

theorem exec_start_of_closed {s : State} (closed : s.sess ≠ .run ∧ s.sess ≠ .drain) :
    exec .start s = .next (openSession s) := checked_passes (outside_passes closed)

/-- A session comes to the walk over its bits and EOS after it. -/
theorem loopCommands_session {feed : List Instr} (hf : allFeed feed = true) {s : State} (adv : LutAdvances s)
    (closed : s.sess ≠ .run ∧ s.sess ≠ .drain) :
    ∃ t, loopCommands (session feed) s = .next t ∧
      t.exceptBitq = (sessionEnd (walk (pushBits (carriedBits feed) (openSession s)))).exceptBitq := by
  rw [session, loopCommands_cons (exec_start_of_closed closed), walk_openSession]
  exact loopCommands_feed hf (adv.congr rfl rfl) rfl rfl (walk_openSession s)

/-- Settles O54: what a session comes to is said by its bits alone. -/
theorem chunkingIndependence : Obligations.ChunkingIndependence := by
  unfold Obligations.ChunkingIndependence
  intro s xs ys inv notRun notDrain hxs hys same
  obtain ⟨t, ht, outcome⟩ := loopCommands_session hxs inv.lutAdvances ⟨notRun, notDrain⟩
  obtain ⟨u, hu, outcome'⟩ := loopCommands_session hys inv.lutAdvances ⟨notRun, notDrain⟩
  exact ⟨t, u, ht, hu, by rw [outcome, outcome', same]⟩

/-! ### The session as one walk -/

/-- An open session with all of its bits pending and EOS seen. -/
def drained (bits : List Bool) (s : State) : State := markEos (pushBits bits (openSession s))

/-- The state with what was fed left out: the bits that an error left in BITQ, and whether EOS came before the error. -/
def State.exceptInput (s : State) : State := { s with bitq := [], eosSeen := false }

/-- A session comes to the walk of a session that has all of its bits and EOS before the walker starts, but for BITQ and
EOS_SEEN after an error. -/
theorem loopCommands_session_drained {feed : List Instr} (hf : allFeed feed = true) {s : State} (adv : LutAdvances s)
    (closed : s.sess ≠ .run ∧ s.sess ≠ .drain) :
    ∃ t, loopCommands (session feed) s = .next t ∧
      t.exceptInput = (walk (drained (carriedBits feed) s)).exceptInput := by
  obtain ⟨t, ht, outcome⟩ := loopCommands_session hf adv closed
  refine ⟨t, ht, ?_⟩
  generalize hr : pushBits (carriedBits feed) (openSession s) = r at outcome
  have run : r.sess = .run := by rw [← hr]; rfl
  have noEos : r.eosSeen = false := by rw [← hr]; rfl
  have advr : LutAdvances r := by rw [← hr]; exact adv.congr rfl rfl
  have whole : walk (drained (carriedBits feed) s) = walk (seeEos (walk r)) := by
    rw [drained, hr, ← seeEos_of_run run, walk_seeEos advr noEos]
  have same : t.exceptInput = (sessionEnd (walk r)).exceptInput :=
    congrArg (fun s => { s with eosSeen := false }) outcome
  rw [same, whole, sessionEnd]
  split
  · next run' => rw [seeEos_of_run run']
  · next notRun =>
    have error : (walk r).sess = .error := (walk_sess_of_run run noEos).resolve_left notRun
    rw [seeEos_of_not_run notRun, walk_of_error (s := { walk r with eosSeen := true }) error]
    rfl

end Sys2Proof.Machine

/-! ## A session over the codes of its symbols (R167, R171, R176, R179)

If each code, at a boundary, comes to its symbol, then a session over a sequence of codes comes to their symbols and END.
What remains of a round trip is one code: a placeholder bit of the one-leaf tree here, a codeword below. -/
namespace Sys2Proof.Machine

/-- `t` is in a session over the tables and CFG of `s`, with EOS seen, at a boundary. -/
structure Between (s t : State) : Prop where
  nodes : t.nodes = s.nodes
  cfg : t.cfg = s.cfg
  drain : t.sess = .drain
  eos : t.eosSeen = true
  cur : t.cur = t.cfg.root
  depth : t.depth = 0

theorem Between.act {s t : State} (h : Between s t) : active t := .inr h.drain

theorem Between.lutAdvances {s t : State} (h : Between s t) (adv : LutAdvances s) : LutAdvances t :=
  adv.congr h.nodes h.cfg

theorem Between.symbol {s t : State} (h : Between s t) (n : Nat) (sym : Symbol) :
    Between s ((WalkerAct.symbol n sym).apply t) :=
  { h with cur := rfl, depth := rfl }

theorem between_drained (bits : List Bool) (s : State) : Between s (drained bits s) := ⟨rfl, rfl, rfl, rfl, rfl, rfl⟩

/-- At a boundary the walk over these bits comes to what emitting the symbol and walking on comes to. -/
def Decodes (s : State) (bits : List Bool) (sym : Symbol) : Prop :=
  ∀ t rest, Between s t → t.bitq = bits ++ rest → walk t = walk ((WalkerAct.symbol bits.length sym).apply t)

/-- Two counts after each other count their sum (R27, R28). -/
theorem ofNat_add_word (x : Word) (m n : Nat) :
    x + BitVec.ofNat 32 m + BitVec.ofNat 32 n = x + BitVec.ofNat 32 (m + n) := by
  rw [BitVec.add_assoc, BitVec.ofNat_add]

/-- `v` is what a session at `t` comes to when the symbols of `seq` are decoded from the rest of its bits. -/
structure Decoded (seq : List (List Bool × Symbol)) (t v : State) : Prop where
  outq : v.outq = t.outq ++ seq.map (fun p => .sym p.2) ++
    [.fin ((t.symCount + BitVec.ofNat 32 seq.length).setWidth 30)]
  sess : v.sess = .done
  bitCount : v.bitCount = t.bitCount + BitVec.ofNat 32 t.bitq.length
  symCount : v.symCount = t.symCount + BitVec.ofNat 32 seq.length
  depth : v.depth = 0

/-- If every code comes to its symbol, their concatenation comes to the symbols in order and END. -/
theorem decoded_walk {s : State} (adv : LutAdvances s) {seq : List (List Bool × Symbol)}
    (decodes : ∀ p ∈ seq, Decodes s p.1 p.2) {t : State} (h : Between s t) (bits : t.bitq = seq.flatMap Prod.fst) :
    Decoded seq t (walk t) := by
  induction seq generalizing t with
  | nil =>
    have done : walk t = finish t := by
      rw [walk_step (h.lutAdvances adv) (Acts.finish h.act bits h.eos h.depth).walkerStep]
      exact walk_of_stuck (.of_not_active (by simp [WalkerAct.apply, active]))
    rw [done]
    exact ⟨by simp [finish], rfl, by simp [show t.bitq = [] from bits], by simp, h.depth⟩
  | cons p seq ih =>
    have bits : t.bitq = p.1 ++ seq.flatMap Prod.fst := bits
    rw [decodes p (List.mem_cons_self ..) t _ h bits]
    have rest : ((WalkerAct.symbol p.1.length p.2).apply t).bitq = seq.flatMap Prod.fst := by
      rw [WalkerAct.apply_bitq, bits]; exact List.drop_left
    obtain ⟨outq, sess, bitCount, symCount, depth⟩ :=
      ih (fun q hq => decodes q (List.mem_cons_of_mem _ hq)) (h.symbol _ _) rest
    have count : t.symCount + 1 + BitVec.ofNat 32 seq.length = t.symCount + BitVec.ofNat 32 (seq.length + 1) := by
      rw [Nat.add_comm]; exact ofNat_add_word t.symCount 1 seq.length
    have emitted : ((WalkerAct.symbol p.1.length p.2).apply t).symCount = t.symCount + 1 := rfl
    rw [emitted, count] at outq symCount
    refine ⟨outq.trans ?_, sess, bitCount.trans ?_, symCount, depth⟩
    · simp [WalkerAct.apply, emitSymbol]
    · rw [rest, bits, List.length_append, ← ofNat_add_word]; rfl

/-- If every code comes to its symbol, a session over the codes emits the symbols and END, and ends DONE. -/
theorem session_decodes {s : State} (adv : LutAdvances s) (closed : s.sess ≠ .run ∧ s.sess ≠ .drain)
    {seq : List (List Bool × Symbol)} (decodes : ∀ p ∈ seq, Decodes s p.1 p.2) {feed : List Instr}
    (hf : allFeed feed = true) (bits : carriedBits feed = seq.flatMap Prod.fst) :
    ∃ t, loopCommands (session feed) s = .next t ∧
      t.outq = s.outq ++ seq.map (fun p => .sym p.2) ++ [.fin (BitVec.ofNat 30 seq.length)] ∧ t.sess = .done ∧
      t.bitCount = BitVec.ofNat 32 (carriedBits feed).length ∧ t.symCount = BitVec.ofNat 32 seq.length ∧ t.depth = 0 := by
  obtain ⟨t, ht, outcome⟩ := loopCommands_session_drained hf adv closed
  obtain ⟨outq, sess, bitCount, symCount, depth⟩ := decoded_walk adv decodes (between_drained (carriedBits feed) s) bits
  have zero (n : Nat) : (0 : Word) + BitVec.ofNat 32 n = BitVec.ofNat 32 n := BitVec.zero_add _
  have count : (drained (carriedBits feed) s).symCount = 0 := rfl
  have narrow : (BitVec.ofNat 32 seq.length).setWidth 30 = BitVec.ofNat 30 seq.length :=
    BitVec.setWidth_ofNat_of_le (by decide) _
  rw [count, zero] at symCount
  rw [count, zero, narrow] at outq
  exact ⟨t, ht, (congrArg (·.outq) outcome).trans outq, (congrArg (·.sess) outcome).trans sess,
    (congrArg (·.bitCount) outcome).trans (bitCount.trans (zero _)), (congrArg (·.symCount) outcome).trans symCount,
    (congrArg (·.depth) outcome).trans depth⟩

/-! ### The one-leaf tree (R167, R179) -/

theorem decodes_placeholder {s : State} {sym : Symbol} (leaf : nodeRead s.cfg.root s = some (.leaf sym)) (b : Bool) :
    Decodes s [b] sym := by
  intro t rest h bits
  have adv : LutAdvances t := by
    intro left right root
    rw [h.cfg, nodeRead_congr h.nodes, leaf] at root
    cases root
  have leaf : nodeRead t.cfg.root t = some (.leaf sym) := by rwa [h.cfg, nodeRead_congr h.nodes]
  exact walk_step adv (Acts.degenerate sym h.act (by simp [bits]) h.depth leaf).walkerStep

/-- Settles O57: every placeholder bit is the code of the one symbol. -/
theorem degenerateRoundTrip : Obligations.DegenerateRoundTrip := by
  unfold Obligations.DegenerateRoundTrip
  intro s sym feed notRun notDrain leaf hf
  have adv : LutAdvances s := fun left right root => by simp [leaf] at root
  have codes : carriedBits feed = ((carriedBits feed).map fun b => ([b], sym)).flatMap Prod.fst := by
    simp [List.flatMap_map]
  obtain ⟨t, ht, outq, sess, bitCount, -, -⟩ := session_decodes adv ⟨notRun, notDrain⟩
    (List.forall_mem_map.mpr fun b _ => decodes_placeholder leaf b) hf codes
  refine ⟨t, ht, sess, ?_, bitCount⟩
  rw [outq, List.map_map, List.length_map]
  simp [Function.comp_def]

end Sys2Proof.Machine

/-! ## A path down the tree (R168, R169, R174, R176) -/
namespace Sys2Proof.Machine

theorem descend_congr {s t : State} (nodes : t.nodes = s.nodes) (i : NodeIdx) (p : List Bool) :
    descend t i p = descend s i p := by
  induction p generalizing i with
  | nil => rfl
  | cons b bs ih => simp only [descend, nodeRead_congr nodes, ih]

theorem isCodeword_congr {s t : State} (nodes : t.nodes = s.nodes) (root : NodeIdx) (bits : List Bool) (sym : Symbol) :
    IsCodeword t root bits sym ↔ IsCodeword s root bits sym := by
  simp only [IsCodeword, descend_congr nodes, nodeRead_congr nodes]

/-! ### A whole path, step by step -/

/-- The act of consuming `n` bits and arriving at node `j`: a leaf's symbol, or a deeper place of the walker. -/
def arrival (j : NodeIdx) (n : Nat) (s : State) : WalkerAct :=
  match nodeRead j s with
  | some (.leaf sym) => .symbol n sym
  | some (.internal _ _) | none => .descend n j (s.depth + BitVec.ofNat 12 n)

theorem arrival_of_leaf {j : NodeIdx} {s : State} {sym : Symbol} (node : nodeRead j s = some (.leaf sym)) (n : Nat) :
    arrival j n s = .symbol n sym := by
  simp only [arrival, node]

theorem arrival_of_not_leaf {j : NodeIdx} {s : State} (node : ∀ sym, nodeRead j s ≠ some (.leaf sym)) (n : Nat) :
    arrival j n s = .descend n j (s.depth + BitVec.ofNat 12 n) := by
  unfold arrival
  split
  · next sym leaf => exact absurd leaf (node sym)
  · rfl
  · rfl

theorem arrival_of_internal {j l r : NodeIdx} {s : State} (node : nodeRead j s = some (.internal l r)) (n : Nat) :
    arrival j n s = .descend n j (s.depth + BitVec.ofNat 12 n) := arrival_of_not_leaf (by simp [node]) n

/-- A serial step to a written child arrives there. -/
theorem serialAct_eq_arrival {s : State} {b : Bool} {rest : List Bool} (bits : s.bitq = b :: rest)
    (left right : NodeIdx) (written : nodeRead (if b then right else left) s ≠ none) (shallow : s.depth.toNat + 1 ≤ 4094) :
    serialAct left right s = arrival (if b then right else left) 1 s := by
  match node : nodeRead (if b then right else left) s with
  | none => exact absurd node written
  | some (.leaf sym) => rw [serialAct_of_leaf bits left right node, arrival_of_leaf node]
  | some (.internal l r) =>
    rw [serialAct_of_internal bits left right node, if_neg (by omega), arrival_of_internal node]; rfl

/-- Going down one bit and arriving after `n` bits more is arriving after `n + 1` bits. -/
theorem arrival_descend {s t : State} {i : NodeIdx} (step : t = (WalkerAct.descend 1 i (s.depth + 1)).apply s)
    (j : NodeIdx) (n : Nat) : (arrival j n t).apply t = (arrival j (n + 1) s).apply s := by
  subst step
  have count : s.bitCount + 1 + BitVec.ofNat 32 n = s.bitCount + BitVec.ofNat 32 (n + 1) := by
    rw [Nat.add_comm]; exact ofNat_add_word s.bitCount 1 n
  have deeper : s.depth + 1 + BitVec.ofNat 12 n = s.depth + BitVec.ofNat 12 (n + 1) := by
    rw [BitVec.add_assoc, Nat.add_comm, BitVec.ofNat_add]; rfl
  have bits : (s.bitq.drop 1).drop n = s.bitq.drop (n + 1) := by rw [List.drop_drop, Nat.add_comm]
  by_cases leaf : ∃ sym, nodeRead j s = some (.leaf sym)
  · obtain ⟨sym, leaf⟩ := leaf
    rw [arrival_of_leaf leaf, arrival_of_leaf (s := WalkerAct.apply _ s) leaf]
    simp only [WalkerAct.apply, emitSymbol, emit, consume, ← count, ← bits]
    rfl
  · have node : ∀ sym, nodeRead j s ≠ some (.leaf sym) := not_exists.mp leaf
    rw [arrival_of_not_leaf node, arrival_of_not_leaf (s := WalkerAct.apply _ s) node]
    simp only [WalkerAct.apply, consume, ← count, ← bits, ← deeper]
    rfl

/-- In serial mode the walk goes down a path of the tree bit by bit and arrives at its node. -/
theorem walk_path {s : State} {p rest : List Bool} {j : NodeIdx} (adv : LutAdvances s) (act : active s)
    (off : s.cfg.lutEn = false) (atRoot : s.depth = 0 → s.cur = s.cfg.root) (bits : s.bitq = p ++ rest)
    (path : descend s s.cur p = some j) (written : nodeRead j s ≠ none) (nonempty : p ≠ [])
    (shallow : s.depth.toNat + p.length ≤ 4094) : walk s = walk ((arrival j p.length s).apply s) := by
  induction p generalizing s with
  | nil => exact absurd rfl nonempty
  | cons b p ih =>
    obtain ⟨left, right, node⟩ := internal_of_descend_cons path
    rw [descend_cons_of_internal node] at path
    have bits : s.bitq = b :: (p ++ rest) := bits
    have due : SerialDue s left right := by
      by_cases boundary : s.depth = 0
      · exact .inr ⟨boundary, atRoot boundary ▸ node, .inl off⟩
      · exact .inl ⟨boundary, node⟩
    rw [List.length_cons] at shallow ⊢
    rw [walk_step adv (Acts.serial left right act (by simp [bits]) due).walkerStep]
    cases p with
    | nil =>
      obtain rfl : (if b then right else left) = j := Option.some.inj path
      rw [serialAct_eq_arrival bits left right written (by omega)]
      rfl
    | cons c p =>
      obtain ⟨l, r, child⟩ := internal_of_descend_cons path
      have notDeepest : ¬ s.depth.toNat + 1 = 4095 := by simp only [List.length_cons] at shallow; omega
      rw [serialAct_of_internal bits left right child, if_neg notDeepest, ← arrival_descend rfl]
      have deeper : (s.depth + 1).toNat = s.depth.toNat + 1 := by
        rw [BitVec.toNat_add]; simp; omega
      refine ih (adv.congr rfl rfl) act off (fun boundary => ?_) ?_ ?_ written (List.cons_ne_nil c p) ?_
      · have zero : (s.depth + 1).toNat = 0 := congrArg BitVec.toNat boundary
        omega
      · rw [WalkerAct.apply_bitq, bits]; rfl
      · exact (descend_congr (s := s) (t := WalkerAct.apply _ s) rfl _ _).trans path
      · rw [show ((WalkerAct.descend 1 (if b then right else left) (s.depth + 1)).apply s).depth = s.depth + 1 from rfl]
        omega

/-- In serial mode a codeword comes to its symbol (R176). -/
theorem decodes_codeword {s : State} {left right : NodeIdx} (adv : LutAdvances s) (off : s.cfg.lutEn = false)
    (root : nodeRead s.cfg.root s = some (.internal left right)) {bits : List Bool} {sym : Symbol}
    (codeword : IsCodeword s s.cfg.root bits sym) (short : bits.length ≤ 2047) : Decodes s bits sym := by
  intro t rest h pending
  obtain ⟨i, path, leaf⟩ := codeword
  have leaf' : nodeRead i t = some (.leaf sym) := by rwa [nodeRead_congr h.nodes]
  have nonempty : bits ≠ [] := by
    rintro rfl
    obtain rfl := Option.some.inj path
    simp [root] at leaf
  rw [walk_path (h.lutAdvances adv) h.act (h.cfg ▸ off) (fun _ => h.cur) pending
    (by rwa [h.cur, h.cfg, descend_congr h.nodes]) (by simp [leaf']) nonempty (by rw [h.depth]; simp; omega), 
    arrival_of_leaf leaf']

end Sys2Proof.Machine

/-! ## The LUT against the tree (R173, R175, R176, R177)

A consistent LUT answers with the node that the tree's path leads to, or with the leaf passed on it. So a LUT step comes
to what the serial steps over the same bits come to; and the other acts do not depend on LUT_EN. -/
namespace Sys2Proof.Machine

/-! ### A LUT step is the arrival at a node -/

/-- In a tree all of whose reachable entries are written, a bit string leads to an internal node, or passes a leaf. -/
theorem exists_arrival {s : State} {i : NodeIdx} (written : ∀ p j, descend s i p = some j → nodeRead j s ≠ none)
    (bits : List Bool) : ∃ len j, len ≤ bits.length ∧ descend s i (bits.take len) = some j ∧
      ((∃ sym, nodeRead j s = some (.leaf sym)) ∨
        (len = bits.length ∧ ∃ left right, nodeRead j s = some (.internal left right))) := by
  induction bits generalizing i with
  | nil =>
    refine ⟨0, i, Nat.le_refl 0, rfl, ?_⟩
    match node : nodeRead i s with
    | none => exact absurd node (written [] i rfl)
    | some (.leaf sym) => exact .inl ⟨sym, rfl⟩
    | some (.internal left right) => exact .inr ⟨rfl, left, right, rfl⟩
  | cons b bits ih =>
    match node : nodeRead i s with
    | none => exact absurd node (written [] i rfl)
    | some (.leaf sym) => exact ⟨0, i, Nat.zero_le _, rfl, .inl ⟨sym, node⟩⟩
    | some (.internal left right) =>
      have below := descend_cons_of_internal node b
      obtain ⟨len, j, le, path, arrived⟩ := ih (i := if b then right else left) fun p j path =>
        written (b :: p) j ((below p).trans path)
      exact ⟨len + 1, j, Nat.succ_le_succ le, (below _).trans path, by simpa using arrived⟩

/-- With a consistent LUT the LUT step's act is the arrival at a node of the tree, after 1 to K bits (R173, R175). -/
theorem lutAct_eq_arrival {s : State} {left right : NodeIdx} (image : WellFormedImage s s.cfg.root)
    (consistent : ConsistentLut s s.cfg.root s.cfg.k.toNat) (root : nodeRead s.cfg.root s = some (.internal left right))
    (boundary : s.depth = 0) (pos : 0 < s.cfg.k.toNat) (enough : s.cfg.k.toNat ≤ s.bitq.length) :
    ∃ len j, 0 < len ∧ len ≤ s.cfg.k.toNat ∧ descend s s.cfg.root (s.bitq.take len) = some j ∧ nodeRead j s ≠ none ∧
      lutAct s = arrival j len s := by
  have width : (peek s.cfg.k.toNat s).length = s.cfg.k.toNat := List.length_take_of_le enough
  obtain ⟨len, j, le, path, ⟨sym, leaf⟩ | ⟨rfl, l, r, node⟩⟩ := exists_arrival image.written (peek s.cfg.k.toNat s)
  · rw [width] at le
    have prefixed : (peek s.cfg.k.toNat s).take len = s.bitq.take len := by
      rw [peek, List.take_take, Nat.min_eq_left le]
    have nonzero : len ≠ 0 := by
      rintro rfl
      obtain rfl := Option.some.inj path
      simp [root] at leaf
    refine ⟨len, j, Nat.pos_of_ne_zero nonzero, le, prefixed ▸ path, by simp [leaf], ?_⟩
    rw [arrival_of_leaf leaf]
    obtain hit | ⟨rfl, hit⟩ := consistent.leafHit _ len j sym width le path leaf
    · have field : (BitVec.ofNat 4 len).toNat = len := by
        have := s.cfg.k.isLt
        rw [BitVec.toNat_ofNat]; omega
      rw [lutAct_of_lleaf hit, field, if_neg (by omega)]
    · exact lutAct_of_leaf hit leaf
  · rw [List.take_length] at path
    have hit := consistent.nodeHit _ j l r width path node
    refine ⟨s.cfg.k.toNat, j, pos, Nat.le_refl _, path, by simp [node], ?_⟩
    rw [lutAct_of_internal hit node, arrival_of_internal node, boundary]
    exact congrArg (WalkerAct.descend _ j) (BitVec.zero_add _).symm

/-! ### The same state in serial mode -/

/-- The state with the LUT off. -/
def serialMode (s : State) : State := { s with cfg := { s.cfg with lutEn := false } }

theorem WalkerAct.apply_serialMode (a : WalkerAct) (s : State) : a.apply (serialMode s) = serialMode (a.apply s) := by
  cases a with
  | error e =>
    have sess : (serialMode s).sess = s.sess := rfl
    simp only [WalkerAct.apply, walkerError, raise_eq, sess]
    split <;> rfl
  | finish | symbol | descend => rfl

theorem descend_serialMode (s : State) (i : NodeIdx) (p : List Bool) : descend (serialMode s) i p = descend s i p :=
  descend_congr (s := s) (t := serialMode s) rfl i p

theorem State.Inv.serialMode {s : State} (inv : s.Inv) : (serialMode s).Inv := { inv with cfgLegal := rfl }

theorem SerialDue.serialMode {s : State} {left right : NodeIdx} (due : SerialDue s left right) :
    SerialDue (serialMode s) left right := by
  obtain inside | ⟨boundary, root, -⟩ := due
  · exact .inl inside
  · exact .inr ⟨boundary, root, .inl rfl⟩

theorem WellFormedImage.congr {s t : State} {root : NodeIdx} (h : WellFormedImage s root) (nodes : t.nodes = s.nodes) :
    WellFormedImage t root := by
  obtain ⟨written, noSharing, distinct⟩ := h
  constructor <;> simpa only [descend_congr nodes, nodeRead_congr nodes, isCodeword_congr nodes]

theorem ConsistentLut.congr {s t : State} {root : NodeIdx} {k : Nat} (h : ConsistentLut s root k)
    (nodes : t.nodes = s.nodes) (lut : t.lut = s.lut) : ConsistentLut t root k := by
  obtain ⟨leafHit, nodeHit⟩ := h
  constructor <;> simpa only [descend_congr nodes, nodeRead_congr nodes, lutRead_congr lut]

/-- The tables of `s` at its root meet R174 and R175. -/
structure LutReady (s : State) : Prop where
  image : WellFormedImage s s.cfg.root
  consistent : ConsistentLut s s.cfg.root s.cfg.k.toNat

theorem LutReady.of_sameSetup {s t : State} (h : LutReady s) (same : SameSetup s t) : LutReady t := by
  obtain ⟨nodes, lut, cfg, -⟩ := same
  exact ⟨cfg ▸ h.image.congr nodes, cfg ▸ h.consistent.congr nodes lut⟩

/-- Serial mode comes to what a step in LUT mode comes to. -/
theorem walk_serialMode_step {s t : State} (inv : s.Inv) (ready : LutReady s) (step : walkerStep s = some (.next t)) :
    walk (serialMode s) = walk (serialMode t) := by
  obtain ⟨a, acts, rfl⟩ := exists_acts step
  have adv : LutAdvances (serialMode s) := inv.serialMode.lutAdvances
  rw [← a.apply_serialMode]
  have follow (same : Acts (serialMode s) a) : walk (serialMode s) = walk (a.apply (serialMode s)) :=
    walk_step adv same.walkerStep
  cases acts with
  | finish act empty eos boundary => exact follow (.finish act empty eos boundary)
  | truncated act empty eos inside => exact follow (.truncated act empty eos inside)
  | rootless act pending boundary root => exact follow (.rootless act pending boundary root)
  | degenerate sym act pending boundary root => exact follow (.degenerate sym act pending boundary root)
  | serial left right act pending due => exact follow (.serial left right act pending due.serialMode)
  | lut left right act pending boundary root lutOn enough =>
    have pos : 0 < s.cfg.k.toNat := inv.lutAdvances left right root lutOn
    obtain ⟨len, j, lenPos, le, path, written, arrives⟩ :=
      lutAct_eq_arrival ready.image ready.consistent root boundary pos enough
    have width : (s.bitq.take len).length = len := List.length_take_of_le (le.trans enough)
    have down := walk_path (s := serialMode s) (p := s.bitq.take len) (rest := s.bitq.drop len) (j := j) adv act rfl
      (fun _ => inv.atRoot act boundary) (List.take_append_drop len s.bitq).symm
      (by rw [descend_serialMode]; exact (inv.atRoot act boundary).symm ▸ path) written
      (by rw [← List.length_pos_iff, width]; exact lenPos)
      (by have := s.cfg.k.isLt; rw [width, show (serialMode s).depth = 0 from boundary]; simp; omega)
    rw [width] at down
    rw [arrives]
    exact down

/-- With EOS seen, serial mode goes no further where LUT mode goes no further. -/
theorem Stuck.serialMode {s : State} (stuck : Stuck s) (eos : s.eosSeen = true) : Stuck (serialMode s) := by
  intro t step
  obtain ⟨a, acts, -⟩ := exists_acts step
  have halts {a : WalkerAct} (acts : Acts s a) : False := stuck _ acts.walkerStep
  cases acts with
  | finish act empty eos boundary => exact halts (.finish act empty eos boundary)
  | truncated act empty eos inside => exact halts (.truncated act empty eos inside)
  | rootless act pending boundary root => exact halts (.rootless act pending boundary root)
  | degenerate sym act pending boundary root => exact halts (.degenerate sym act pending boundary root)
  | lut _ _ _ _ _ _ lutOn _ => cases lutOn
  | serial left right act pending due =>
    obtain inside | ⟨boundary, root, -⟩ := due
    · exact halts (.serial left right act pending (.inl inside))
    · cases lutOn : s.cfg.lutEn with
      | false => exact halts (.serial left right act pending (.inr ⟨boundary, root, .inl lutOn⟩))
      | true =>
        by_cases enough : s.cfg.k.toNat ≤ s.bitq.length
        · exact halts (.lut left right act pending boundary root lutOn enough)
        · have few : s.bitq.length < s.cfg.k.toNat := Nat.lt_of_not_ge enough
          exact halts (.serial left right act pending (.inr ⟨boundary, root, .inr ⟨few, eos⟩⟩))

/-- With EOS seen and a consistent LUT the walk in serial mode comes to what it comes to in LUT mode (R177). -/
theorem walk_serialMode {s : State} (inv : s.Inv) (eos : s.eosSeen = true) (ready : LutReady s) :
    walk (serialMode s) = serialMode (walk s) := by
  have walked : walk (serialMode s) = walk (serialMode (walk s)) :=
    walk_map (C := fun t => t.Inv ∧ LutReady t)
      (fun s t ⟨inv, ready⟩ step =>
        ⟨walkerStep_keeps_inv inv step, ready.of_sameSetup (walkerStep_outcome step).sameSetup⟩)
      (fun s t ⟨inv, ready⟩ _ step => walk_serialMode_step inv ready step) inv.lutAdvances ⟨inv, ready⟩
  rw [walked]
  exact walk_of_stuck ((stuck_walk inv.lutAdvances).serialMode ((walk_eosSeen s).trans eos))

theorem State.Inv.drained {s : State} (inv : s.Inv) (bits : List Bool) : (drained bits s).Inv :=
  (inv.openSession.pushBits rfl bits).markEos rfl

/-- Settles O56: both sessions are one walk from EOS on, and the walk in serial mode is that in LUT mode. -/
theorem lutModeEqualsSerialMode : Obligations.LutModeEqualsSerialMode := by
  unfold Obligations.LutModeEqualsSerialMode
  intro s left right feed inv notRun notDrain lutOn image root consistent hf
  obtain ⟨t, ht, lutOutcome⟩ := loopCommands_session_drained hf inv.lutAdvances ⟨notRun, notDrain⟩
  obtain ⟨u, hu, serialOutcome⟩ :=
    loopCommands_session_drained (s := serialMode s) hf inv.serialMode.lutAdvances ⟨notRun, notDrain⟩
  have ready : LutReady (drained (carriedBits feed) s) :=
    LutReady.of_sameSetup ⟨image, consistent⟩ ⟨rfl, rfl, rfl, rfl, rfl⟩
  have walked : walk (drained (carriedBits feed) (serialMode s)) = serialMode (walk (drained (carriedBits feed) s)) :=
    walk_serialMode (inv.drained _) rfl ready
  rw [walked] at serialOutcome
  have same {α : Type} (f : State → α) (off : ∀ v, f (serialMode v) = f v) (input : ∀ v, f v.exceptInput = f v) :
      f t = f u := by
    rw [← input t, ← input u, lutOutcome, serialOutcome, input, input, off]
  exact ⟨t, u, ht, hu, same (·.outq) (fun _ => rfl) fun _ => rfl, same (·.sess) (fun _ => rfl) fun _ => rfl,
    same (·.bitCount) (fun _ => rfl) fun _ => rfl, same (·.symCount) (fun _ => rfl) fun _ => rfl,
    same (·.errCode) (fun _ => rfl) fun _ => rfl, same (·.errInfo) (fun _ => rfl) fun _ => rfl,
    same (·.cur) (fun _ => rfl) fun _ => rfl, same (·.depth) (fun _ => rfl) fun _ => rfl⟩

/-! ### The round trip -/

/-- The round trip in serial mode: each codeword is the code of its symbol. -/
theorem roundTrip_serial {s : State} {left right : NodeIdx} {seq : List (List Bool × Symbol)} {feed : List Instr}
    (adv : LutAdvances s) (closed : s.sess ≠ .run ∧ s.sess ≠ .drain) (off : s.cfg.lutEn = false)
    (image : WellFormedImage s s.cfg.root) (root : nodeRead s.cfg.root s = some (.internal left right))
    (codewords : ∀ p ∈ seq, IsCodeword s s.cfg.root p.1 p.2) (hf : allFeed feed = true)
    (bits : carriedBits feed = seq.flatMap Prod.fst) :
    ∃ t, loopCommands (session feed) s = .next t ∧
      t.outq = s.outq ++ seq.map (fun p => .sym p.2) ++ [.fin (BitVec.ofNat 30 seq.length)] ∧ t.sess = .done ∧
      t.bitCount = BitVec.ofNat 32 (carriedBits feed).length ∧ t.symCount = BitVec.ofNat 32 seq.length ∧ t.depth = 0 :=
  session_decodes adv closed (fun p hp => decodes_codeword adv off root (codewords p hp)
    (codewordsAreShort s s.cfg.root p.1 p.2 image (codewords p hp))) hf bits

/-- Settles O55: in serial mode code by code, and with a consistent LUT because LUT mode gives the same. -/
theorem roundTrip : Obligations.RoundTrip := by
  unfold Obligations.RoundTrip
  intro s left right seq feed inv notRun notDrain image root mode codewords hf bits
  cases lutOn : s.cfg.lutEn with
  | false => exact roundTrip_serial inv.lutAdvances ⟨notRun, notDrain⟩ lutOn image root codewords hf bits
  | true =>
    have consistent := mode.resolve_left (by simp [lutOn])
    obtain ⟨t, u, ht, hu, outq, sess, bitCount, symCount, -, -, -, depth⟩ :=
      lutModeEqualsSerialMode s left right feed inv notRun notDrain lutOn image root consistent hf
    have serialCodewords (p) (hp : p ∈ seq) : IsCodeword (serialMode s) s.cfg.root p.1 p.2 :=
      (isCodeword_congr (s := s) (t := serialMode s) rfl ..).mpr (codewords p hp)
    obtain ⟨u', hu', outcome⟩ := roundTrip_serial (s := serialMode s) inv.serialMode.lutAdvances ⟨notRun, notDrain⟩ rfl
      (image.congr rfl) root serialCodewords hf bits
    obtain rfl : u = u' := Host.Outcome.next.inj (hu.symm.trans hu')
    exact ⟨t, ht, by rwa [outq, sess, bitCount, symCount, depth]⟩

end Sys2Proof.Machine

/-! ## The walker's steps, act by act (R165 to R173, R181) -/
namespace Sys2Proof.Machine

/-- A symbol of a codeword that ends after `n` bits (R170). -/
theorem apply_symbol (n : Nat) (sym : Symbol) (s : State) :
    (WalkerAct.symbol n sym).apply s = { s with
      bitq := s.bitq.drop n, bitCount := s.bitCount + BitVec.ofNat 32 n, outq := s.outq ++ [.sym sym],
      symCount := s.symCount + 1, cur := s.cfg.root, depth := 0 } := rfl

/-- The word of a SYM record (R74, R170). -/
theorem word_sym (sym : Symbol) : Record.word (.sym sym) = sym.setWidth 32 := by
  apply BitVec.eq_of_toNat_eq
  refine (BitVec.toNat_append (0#16) sym).trans ?_
  have := sym.isLt
  simp
  omega

/-- The word of an END record (R74, R171). -/
theorem word_fin (count : Word) :
    Record.word (.fin (count.extractLsb' 0 30)) = 0x40000000#32 ||| (count &&& 0x3FFFFFFF#32) := by
  apply BitVec.eq_of_toNat_eq
  refine (BitVec.toNat_append (1#2) (count.extractLsb' 0 30)).trans ?_
  have low : count.toNat &&& 1073741823 = count.toNat % 1073741824 := Nat.and_two_pow_sub_one_eq_mod count.toNat 30
  simp [BitVec.toNat_or, low]

/-- Settles O23: the act is to finish, and END's word is the tag beside the low 30 bits of SYM_COUNT. -/
theorem finishStepEmitsEnd : Obligations.FinishStepEmitsEnd := by
  unfold Obligations.FinishStepEmitsEnd
  intro s act empty eos boundary
  refine ⟨?_, word_fin s.symCount⟩
  have low : s.symCount.setWidth 30 = s.symCount.extractLsb' 0 30 := BitVec.setWidth_eq_extractLsb' (by decide)
  rw [(Acts.finish act empty eos boundary).walkerStep, ← low]
  rfl

/-- Settles O24: the act is the error TRUNCATED_INPUT. -/
theorem truncatedInputStep : Obligations.TruncatedInputStep := by
  unfold Obligations.TruncatedInputStep
  intro s act empty eos inside
  rw [(Acts.truncated act empty eos inside).walkerStep, apply_error_of_active act]
  rfl

/-- Settles O25: an unwritten root is an error once a bit is pending; without bits the session ends with no node
read. -/
theorem unwrittenRootStep : Obligations.UnwrittenRootStep := by
  unfold Obligations.UnwrittenRootStep
  constructor
  · intro s act pending boundary unwritten
    rw [(Acts.rootless act pending boundary unwritten).walkerStep, apply_error_of_active act]
    rfl
  · intro s notRun notDrain unwritten
    have adv : LutAdvances s := fun left right root => by simp [unwritten] at root
    obtain ⟨t, ht, outq, sess, -⟩ :=
      session_decodes adv ⟨notRun, notDrain⟩ (seq := []) (by simp) (feed := []) rfl rfl
    exact ⟨t, ht, sess, outq.trans (by simp)⟩

/-- Settles O26: the act of a leaf root does not look at LUT_EN or K. -/
theorem degenerateStepEmitsSymbol : Obligations.DegenerateStepEmitsSymbol := by
  unfold Obligations.DegenerateStepEmitsSymbol
  intro s b rest sym act bits boundary leaf
  have pending : s.bitq ≠ [] := by simp [bits]
  rw [(Acts.degenerate sym act pending boundary leaf).walkerStep, apply_symbol, bits]
  rfl

/-- Settles O27: a serial step is due, and its act is that of the child on the next bit's side. -/
theorem serialStepDescends : Obligations.SerialStepDescends := by
  unfold Obligations.SerialStepDescends
  refine ⟨word_sym, ?_⟩
  intro s b rest left right nxt act bits due child
  subst child
  have step : walkerStep s = some (.next ((serialAct left right s).apply s)) :=
    (Acts.serial left right act (by simp [bits]) due).walkerStep
  rw [step]
  refine ⟨fun unwritten => ?_, fun sym leaf => ?_, fun l r internal deepest => ?_, fun l r internal shallower => ?_⟩
  · rw [serialAct_of_unwritten bits left right unwritten]; rfl
  · rw [serialAct_of_leaf bits left right leaf, apply_symbol, bits]; rfl
  · rw [serialAct_of_internal bits left right internal, if_pos deepest]; rfl
  · rw [serialAct_of_internal bits left right internal, if_neg shallower]
    simp [WalkerAct.apply, consume, bits]

/-- Settles O28: the act is that of the LUT entry of the next K bits. -/
theorem lutStepResolvesPrefix : Obligations.LutStepResolvesPrefix := by
  unfold Obligations.LutStepResolvesPrefix
  rintro s left right _ _ act boundary root lutOn rfl pos - enough rfl
  have pending : s.bitq ≠ [] := List.length_pos_iff.mp (pos.trans enough)
  have step : walkerStep s = some (.next ((lutAct s).apply s)) :=
    (Acts.lut left right act pending boundary root lutOn enough).walkerStep
  rw [step]
  refine ⟨fun invalid => ?_, fun sym len hit => ?_, fun i hit => ?_⟩
  · rw [lutAct_of_invalid invalid]; rfl
  · rw [lutAct_of_lleaf hit]
    constructor
    · rintro (rfl | long)
      · rfl
      · rw [if_pos (.inr long)]; rfl
    · rintro ⟨nonzero, short⟩
      have pos : len.toNat ≠ 0 := fun h => nonzero (BitVec.eq_of_toNat_eq h)
      rw [if_neg (by omega)]; rfl
  · refine ⟨fun unwritten => ?_, fun sym leaf => ?_, fun l r internal => ?_⟩
    · rw [lutAct_of_unwritten hit unwritten]; rfl
    · rw [lutAct_of_leaf hit leaf]; rfl
    · rw [lutAct_of_internal hit internal]; rfl

/-- Settles O29, act by act. -/
theorem walkerFrame : Obligations.WalkerFrame := by
  unfold Obligations.WalkerFrame
  intro s t step
  obtain ⟨a, acts, rfl⟩ := exists_acts step
  cases a with
  | error e =>
    have entry : raise e s.bitCount s = _ := apply_error_of_active acts.active e
    rw [apply_error_of_active acts.active]
    exact ⟨rfl, ⟨0, Nat.zero_le _, rfl, by simp⟩, ⟨[.err e.code], Nat.le_refl 1, rfl, by simp [Record.isSym]⟩,
      .inr ⟨e, s.bitCount, entry.symm⟩⟩
  | finish =>
    exact ⟨rfl, ⟨0, Nat.zero_le _, rfl, by simp [WalkerAct.apply]⟩,
      ⟨[_], Nat.le_refl 1, rfl, by simp [WalkerAct.apply, Record.isSym]⟩, .inl ⟨rfl, rfl⟩⟩
  | symbol n sym =>
    exact ⟨rfl, ⟨n, acts.bits_le, rfl, rfl⟩, ⟨[.sym sym], Nat.le_refl 1, rfl, rfl⟩, .inl ⟨rfl, rfl⟩⟩
  | descend n i d =>
    exact ⟨rfl, ⟨n, acts.bits_le, rfl, rfl⟩,
      ⟨[], Nat.zero_le 1, by simp [WalkerAct.apply], by simp [WalkerAct.apply]⟩, .inl ⟨rfl, rfl⟩⟩

end Sys2Proof.Machine

/-! ## A step of the block: which move happens (R160, R163, R228, R244, R249, R251) -/
namespace Sys2Proof.Machine

/-- In DRAIN every command behind the state check goes on waiting (R162, log 8). -/
theorem checked_of_drain {c : CommandClass} {i : Instr} {body : State → State} {s : State} (drain : s.sess = .drain) :
    checked c i body s = .next { s with accepted := encode i :: s.accepted } := by
  cases c <;> simp [checked, checkState, drain]

/-- Settles O19: a command other than NOP stands behind the state check. -/
theorem commandsWaitInDrain : Obligations.CommandsWaitInDrain := by
  unfold Obligations.CommandsWaitInDrain
  intro i s wf notNop drain
  cases i with
  | nop => exact absurd rfl notNop
  | pushb c d => rw [exec_pushb_of_ok wf, checked_of_drain drain]
  | setnp => rw [exec, execSetnp, checked_of_drain drain]
  | setlp => rw [exec, execSetlp, checked_of_drain drain]
  | cfg => rw [exec, execCfg, checked_of_drain drain]
  | wni | wnl | wll | wln | wlx | start | eos | abort => exact checked_of_drain drain

/-! ### Who has a move -/

theorem fits_iff {s t : State} : fits s t = true ↔
    (t.outq.length ≤ s.outq.length ∨ t.outq.length ≤ Config.outqDepth) ∧
      (t.bitq.length ≤ s.bitq.length ∨ t.bitq.length ≤ Config.bitqDepth) := by
  simp only [fits, Bool.and_eq_true, Bool.or_eq_true, Nat.ble_eq]

theorem hostMove_of_done {s : State} (h : s.agenda = [] ∨ hostMove s = none) : hostMove s = none :=
  h.elim (fun done => by rw [hostMove, done]) id

theorem portMove_of_none {s : State} (h : s.accepted = [] ∨ portMove s = none) : portMove s = none :=
  h.elim (fun empty => by rw [portMove, empty]) id

theorem walkerMove_of_quiescent {s : State} (quiet : quiescent s = true) : walkerMove s = none := by
  rw [walkerMove, quiescent_iff.mp quiet]

/-- The walker's move is its step if OUTQ has room; BITQ never lacks room for it (R251). -/
theorem walkerMove_of_step {s u : State} (step : walkerStep s = some (.next u)) :
    walkerMove s =
      if u.outq.length ≤ s.outq.length ∨ u.outq.length ≤ Config.outqDepth then some (.next u) else none := by
  have shorter : u.bitq.length ≤ s.bitq.length := by
    obtain ⟨a, -, rfl⟩ := exists_acts step
    rw [WalkerAct.apply_bitq, List.length_drop]
    omega
  simp only [walkerMove, step, ifFits, fits_iff, shorter, true_or, and_true]

/-- With the walker quiescent, the oldest accepted word has its effect if that fits (R160, R251). -/
theorem portMove_of_quiescent {s t : State} {w : Word} {rest : List Word} (head : s.accepted = w :: rest)
    (quiet : quiescent s = true) (effect : execute w { s with accepted := rest } = .next t) :
    portMove s = if fits s t then some (.next t) else none := by
  have quiet' : quiescent { s with accepted := rest } = true :=
    (quiescent_block (s := { s with accepted := rest }) (t := s) rfl).trans quiet
  simp only [portMove, head, commandMove, quiet', Bool.true_or, if_true, effect, ifFits]
  rfl

/-- What a word that is offered comes to: it is accepted, or it waits for one cycle more (R249, R244). -/
def offered (w : Word) (rest : List HostEvent) (s : State) : State :=
  if cmdReady w s then acceptWord w rest s else { s with readyIn := s.readyIn - 1 }

theorem offerWord_eq (w : Word) (rest : List HostEvent) (s : State) :
    ∃ n, offerWord w rest s = .next { offered w rest s with draws := (offered w rest s).draws + n } := by
  simp only [offerWord]
  split
  · exact ⟨0, rfl⟩
  · exact ⟨1, rfl⟩

theorem hostMove_of_command {s : State} {w : Word} {rest : List HostEvent} (head : s.agenda = .command w :: rest)
    (isOpen : portOpen s = true) : hostMove s = some (offerWord w rest s) := by
  simp only [hostMove, head, isOpen, if_true]

theorem portOpen_of_cmdReady {w : Word} {s : State} (ready : cmdReady w s = true) : portOpen s = true := by
  simp only [cmdReady, Bool.and_eq_true] at ready
  exact ready.1.2

/-! ### Every step is one of the moves -/

/-- The step from `s` to `t` is the host's move. -/
def ByHost (s t : State) : Prop := ∃ h, hostMove s = some (.next h) ∧ t = { h with draws := t.draws }

theorem byHost_of_offered {s t : State} {w : Word} {rest : List HostEvent} (head : s.agenda = .command w :: rest)
    (isOpen : portOpen s = true) (ht : t = { offered w rest s with draws := t.draws }) : ByHost s t := by
  obtain ⟨n, offer⟩ := offerWord_eq w rest s
  exact ⟨_, (hostMove_of_command head isOpen).trans (congrArg some offer), ht⟩

/-- A move is a reset's, the host's, a command's or the walker's, or there is none. -/
theorem Move.kind {s t : State} (move : Move s t) (n : Nat) :
    ByReset s { t with draws := n } ∨ ByHost s { t with draws := n } ∨ ByEffect s { t with draws := n } ∨
    ByWalker s { t with draws := n } ∨
    (resetMove s = none ∧ hostMove s = none ∧ portMove s = none ∧ walkerMove s = none) := by
  cases move with
  | wait reset host port walker => exact .inr (.inr (.inr (.inr ⟨reset, host, port, walker⟩)))
  | walker _ step _ => exact .inr (.inr (.inr (.inl ⟨t, step, rfl⟩)))
  | command w rest _ head _ effect _ => exact .inr (.inr (.inl ⟨w, rest, t, head, effect, rfl⟩))
  | accept w rest head ready =>
    exact .inr (.inl (byHost_of_offered head (portOpen_of_cmdReady ready) (by rw [offered, if_pos ready])))
  | refuse w rest head unready isOpen =>
    exact .inr (.inl (byHost_of_offered head isOpen (by rw [offered, if_neg (by simp [unready])])))
  | take rest head => exact .inr (.inl ⟨_, by simp only [hostMove, head], rfl⟩)
  | status a rest head => exact .inr (.inl ⟨_, by simp only [hostMove, head], rfl⟩)
  | lower more rest ahead => exact .inl (.inr ⟨more, rest, ahead, rfl⟩)
  | reset low => exact .inl (.inl low)

/-- With `rst_n` high and no move the block waits (R228, log 18). -/
theorem step_of_no_move {s : State} (high : rstN s = true) (reset : resetMove s = none) (host : hostMove s = none)
    (port : portMove s = none) (walker : walkerMove s = none) : step s = .next s := by
  simp [step_of_high high, portsMove, reset, host, port, walker, choose]

/-- Settles O44: with the host and the port still, a step is the walker's move or none; every step is one of the
moves. -/
theorem idleBlockWaits : Obligations.IdleBlockWaits := by
  unfold Obligations.IdleBlockWaits
  refine ⟨fun s high done empty quiet => ?_,
    fun s host port => ⟨fun quiet => ?_, fun u step => ⟨fun room => ?_, fun full => ?_⟩⟩,
    fun s h u high host port step room noReset => ?_, fun s t step => ?_⟩
  · exact step_of_no_move high (by rw [resetMove, done]; rfl) (hostMove_of_done (.inl done))
      (portMove_of_none (.inl empty)) (walkerMove_of_quiescent quiet)
  · exact waits_of_no_move (hostMove_of_done host) (portMove_of_none port) (walkerMove_of_quiescent quiet)
  · exact stepsTo_of_walkerMove (hostMove_of_done host) (portMove_of_none port)
      ((walkerMove_of_step step).trans (if_pos room))
  · exact waits_of_no_move (hostMove_of_done host) (portMove_of_none port)
      ((walkerMove_of_step step).trans (if_neg full))
  · exact step_of_both host (portMove_of_none port) ((walkerMove_of_step step).trans (if_pos room)) high noReset
  · obtain ⟨m, n, move, rfl⟩ := step_move step
    obtain reset | host | effect | walker | ⟨reset, host, port, walker⟩ := move.kind (m.draws + n)
    · exact .inl reset
    · exact .inr (.inl host)
    · exact .inr (.inr (.inl effect))
    · exact .inr (.inr (.inr (.inl walker)))
    · cases high : rstN s with
      | false => exact .inl (.inl high)
      | true =>
        have still := Host.Outcome.next.inj (step.symm.trans (step_of_no_move high reset host port walker))
        exact .inr (.inr (.inr (.inr ⟨still, reset, host, port, walker⟩)))

/-! ### The command port -/

/-- A word that is offered to an idle block and whose effect would fit could take effect at once. -/
theorem takesEffect_of_quiescent {s t : State} {w : Word} (empty : s.accepted = []) (quiet : quiescent s = true)
    (effect : execute w s = .next t) (room : fits s t = true) : takesEffect w s = true := by
  simp [takesEffect, empty, commandMove, quiet, effect, ifFits, room]

theorem cmdReady_of_takesEffect {s : State} {w : Word} (high : rstN s = true) (empty : s.accepted = [])
    (takes : takesEffect w s = true) : cmdReady w s = (s.readyIn == 0) := by
  simp [cmdReady, high, portOpen, empty, noneWaits, takes]

/-- Where only a word that could take effect at once is offered, a step is its offer. -/
theorem stepsTo_offered {s : State} {w : Word} {es : List HostEvent} (head : s.agenda = .command w :: es)
    (empty : s.accepted = []) (quiet : quiescent s = true) (takes : takesEffect w s = true) :
    StepsTo s (offered w es s) := by
  have isOpen : portOpen s = true := by rw [portOpen, empty, noneWaits]
  refine stepsTo_of_hostMove ?_ (portMove_of_none (.inl empty)) (walkerMove_of_quiescent quiet)
  rw [hostMove_of_command head isOpen, offerWord, if_pos takes]
  rfl

/-- A command, held or not, leaves the host's plans as they are (R21). -/
theorem execute_agenda {w : Word} {s t : State} (h : execute w s = .next t) : t.agenda = s.agenda := by
  obtain ⟨i, -, effect⟩ | rfl := execute_effect h
  · cases effect with
    | error => exact raise_agenda ..
    | nothing | held | setnp | writeNode | setlp | writeLut | cfg | start | pushb | eos | abort => rfl
  · exact raise_agenda ..

/-- A move after which the offered word is gone has accepted it, or is a reset's (R249, R243). -/
theorem Move.of_gone {s t : State} (move : Move s t) {w : Word} {es : List HostEvent}
    (head : s.agenda = .command w :: es) (gone : t.agenda = es) (n : Nat) : ByReset s { t with draws := n } ∨
      { t with draws := n } = ({ s with agenda := es, accepted := s.accepted ++ [w], draws := n } : State) := by
  have stays (same : t.agenda = s.agenda) : False := by
    rw [gone, head] at same
    simp at same
  cases move with
  | wait | refuse => exact (stays rfl).elim
  | walker _ step _ => exact (stays (congrArg (·.agenda) (walkerStep_toOutside step))).elim
  | command v rest _ _ _ effect _ => exact (stays (execute_agenda (s := { s with accepted := rest }) effect)).elim
  | accept v rest head' =>
    obtain ⟨⟨⟩, rfl⟩ := List.cons.inj (head.symm.trans head')
    exact .inr rfl
  | take _ head' | status _ _ head' => simp [head] at head'
  | lower more rest ahead => exact .inl (.inr ⟨more, rest, ahead, rfl⟩)
  | reset low => exact .inl (.inl low)

/-- Settles O45: the oldest accepted word and an offered word, each where nothing else moves. -/
theorem stepRunsDecodedCommand : Obligations.StepRunsDecodedCommand := by
  unfold Obligations.StepRunsDecodedCommand
  refine ⟨fun s t w rest head host quiet decoded => ?_, fun s t w es high head empty quiet effect room => ?_,
    fun s t w es head step gone => ?_⟩
  · have effect : execute w { s with accepted := rest } = .next t := by
      obtain ⟨i, ok, h⟩ | ⟨illegal, rfl⟩ := decoded
      · rw [execute, ok]; exact h
      · exact execute_of_decode_error illegal _
    have port := portMove_of_quiescent head quiet effect
    rw [← fits_iff]
    constructor
    · intro room
      rw [if_pos room] at port
      exact stepsTo_of_portMove (hostMove_of_done host) port (walkerMove_of_quiescent quiet)
    · intro full
      rw [if_neg full] at port
      exact waits_of_no_move (hostMove_of_done host) port (walkerMove_of_quiescent quiet)
  · have takes := takesEffect_of_quiescent empty quiet effect (fits_iff.mpr room)
    have ready := cmdReady_of_takesEffect high empty takes
    have step := stepsTo_offered head empty quiet takes
    constructor
    · intro now
      have ready : cmdReady w s = true := by rw [ready, now]; rfl
      rw [offered, if_pos ready, acceptWord, empty] at step
      exact ⟨ready, step⟩
    · intro n later
      have unready : cmdReady w s = false := by rw [ready, later]; rfl
      rw [offered, if_neg (by simp [unready]), later] at step
      exact ⟨unready, step⟩
  · obtain ⟨m, n, move, rfl⟩ := step_move step
    exact move.of_gone head gone _

end Sys2Proof.Machine

/-! ## Illegal words (R93, R96, R207) -/
namespace Sys2Proof

/-- The opcode byte of a row (R92). -/
def Opcode.byte (op : Opcode) : BitVec 8 := field op.matchWord 24 8

/-- The number of field bits of a row: they are the lowest bits of its words, and the bits between them and the opcode
byte are reserved (R91). -/
def Opcode.fieldBits : Opcode → Nat
  | .nop | .wlx | .start | .eos | .abort => 0
  | .setlp => 10
  | .setnp | .wln => 12
  | .wnl => 16
  | .cfg => 18
  | .wll => 20
  | .pushb => 21
  | .wni => 24

/-- A byte that names a row is the row's (R92). -/
theorem byte_of_ofByte {b : BitVec 8} {op : Opcode} (names : Opcode.ofByte b = some op) : b = op.byte := by
  apply BitVec.eq_of_toNat_eq
  unfold Opcode.ofByte at names
  split at names <;> cases names <;> assumption

/-- The bytes that name no row are those above the last row's (R94). -/
theorem lt_of_ofByte_none {b : BitVec 8} (reserved : Opcode.ofByte b = none) : 0x0C < b.toNat := by
  by_contra named
  have small : b.toNat ≤ 12 := Nat.le_of_not_lt named
  unfold Opcode.ofByte at reserved
  interval_cases b.toNat <;> cases reserved

/-- With a row's opcode byte, a word selects the row when its reserved bits are 0 (R92, R93). -/
theorem selects_iff_of_opcode {op : Opcode} {w : Word} (opcode : field w 24 8 = op.byte) :
    op.selects w = true ↔ field w op.fieldBits (24 - op.fieldBits) = 0 := by
  constructor
  · intro sel
    rw [field_of_selects sel (by cases op <;> rfl)]
    cases op <;> rfl
  · exact Machine.selects_of_fields (by cases op <;> rfl) (by cases op <;> rfl) (by cases op <;> rfl) opcode

/-- A word whose opcode byte names a row is illegal when it does not select the row or its fields are not well formed
(R97). -/
theorem decode_error_iff_of_ofByte {op : Opcode} {w : Word} (names : Opcode.ofByte (field w 24 8) = some op) :
    (∃ why, decode w = .error why) ↔ ¬ op.selects w = true ∨ ¬ (fieldsOf op w).wellFormed = true := by
  by_cases sel : op.selects w = true
  · by_cases wf : (fieldsOf op w).wellFormed = true <;> simp [decode, names, sel, wf]
  · simp [decode, names, sel]

end Sys2Proof

namespace Sys2Proof.Machine

/-- The table of formats calls the bits reserved that the row does not use (R91, R93). -/
theorem reservedBitSet_iff_of_opcode {op : Opcode} {w : Word} (opcode : field w 24 8 = op.byte) :
    reservedBitSet w ↔ field w op.fieldBits (24 - op.fieldBits) ≠ 0 := by
  rw [reservedBitSet, opcode]
  cases op with
  | wni => exact ⟨False.elim, fun h => h BitVec.of_length_zero⟩
  | nop | setnp | wnl | setlp | wll | wln | wlx | cfg | start | pushb | eos | abort => exact Iff.rfl

/-- Of the fields of a row only the count of a PUSHB can be ill formed (R96). -/
theorem not_wellFormed_fieldsOf_iff {op : Opcode} {w : Word} :
    ¬ (fieldsOf op w).wellFormed = true ↔
      op.byte = 0x0A#8 ∧ ((field w 16 5).toNat = 0 ∨ 16 < (field w 16 5).toNat) := by
  cases op with
  | pushb =>
    have byte : Opcode.byte .pushb = 0x0A#8 := rfl
    rw [fieldsOf, Instr.wellFormed, pushCountOk_iff]
    simp only [byte, true_and]
    omega
  | nop | setnp | wni | wnl | setlp | wll | wln | wlx | cfg | start | eos | abort =>
    exact ⟨fun ill => absurd rfl ill, fun ⟨byte, _⟩ => absurd byte (by decide)⟩

/-- The three ways a word can be illegal (R207). -/
theorem decode_error_iff {w : Word} :
    (∃ why, decode w = .error why) ↔
      0x0C < (field w 24 8).toNat ∨ reservedBitSet w ∨
      (field w 24 8 = 0x0A#8 ∧ ((field w 16 5).toNat = 0 ∨ 16 < (field w 16 5).toNat)) := by
  match names : Opcode.ofByte (field w 24 8) with
  | none =>
    have illegal : decode w = .error .reservedOpcode := by rw [decode, names]
    exact ⟨fun _ => .inl (lt_of_ofByte_none names), fun _ => ⟨_, illegal⟩⟩
  | some op =>
    have opcode := byte_of_ofByte names
    have named : ¬ 0x0C < (field w 24 8).toNat := by rw [opcode]; cases op <;> decide
    rw [decode_error_iff_of_ofByte names, selects_iff_of_opcode opcode, not_wellFormed_fieldsOf_iff,
      reservedBitSet_iff_of_opcode opcode, ← opcode, or_iff_right named]

/-- Settles O4: an illegal word is one of three kinds, and goes to error entry. -/
theorem illegalWordsRaise : Obligations.IllegalWordsRaise := by
  unfold Obligations.IllegalWordsRaise
  intro w s
  refine ⟨decode_error_iff, fun illegal alive => ?_, fun illegal error => ?_⟩
  · rw [execute_of_decode_error illegal, raise_eq, if_neg alive]
    rfl
  · rw [execute_of_decode_error illegal, raise_of_error error]

end Sys2Proof.Machine

/-! ## Errors and the interrupt line (R210 to R222) -/
namespace Sys2Proof.Machine

/-! ### Error entry and `irq` -/

/-- The word of an ERR record (R74, R210). -/
theorem word_err (code : BitVec 8) : Record.word (.err code) = 0x80000000#32 ||| code.setWidth 32 := by
  apply BitVec.eq_of_toNat_eq
  refine (BitVec.toNat_append (0b10#2 ++ 0#22) code).trans ?_
  have := code.isLt
  simp [BitVec.toNat_or, Nat.mod_eq_of_lt (show code.toNat < 4294967296 by omega)]

/-- Settles O33, from the equation of error entry. -/
theorem errorEntry : Obligations.ErrorEntry := by
  unfold Obligations.ErrorEntry
  refine ⟨rfl, fun e info s => ⟨raise_of_error, fun alive => ?_, word_err e.code⟩⟩
  rw [raise_eq, if_neg alive]

theorem irq_iff {s : State} : irq s = true ↔ s.cfg.irqEn = true ∧ (s.sess = .done ∨ s.sess = .error) := by
  rw [irq, Bool.and_eq_true, Bool.or_eq_true, beq_iff_eq, beq_iff_eq]

/-- Settles O37: STATUS[5] is one of the flags of the status word. -/
theorem irqIsAFunctionOfState : Obligations.IrqIsAFunctionOfState := by
  unfold Obligations.IrqIsAFunctionOfState
  refine ⟨fun s => irq_iff, fun s => ?_, rfl⟩
  obtain ⟨-, -, irqBit, -⟩ := statusWord_flags s
  exact irqBit

/-! ### The first error stands (R212) -/

/-- ERR_CODE, ERR_INFO and the records emitted are the same in both states. -/
def ErrorStands (s t : State) : Prop :=
  t.errCode = s.errCode ∧ t.errInfo = s.errInfo ∧ t.taken ++ t.outq = s.taken ++ s.outq

theorem ErrorStands.refl (s : State) : ErrorStands s s := ⟨rfl, rfl, rfl⟩

theorem ErrorStands.takeRecord (s : State) : ErrorStands s (takeRecord s) := by
  refine ⟨?_, ?_, takeRecord_stream s⟩ <;> unfold Machine.takeRecord <;> split <;> rfl

/-- A command that leaves SESS at ERROR records nothing. -/
theorem CommandEffect.errorStands {i : Instr} {s t : State} (effect : CommandEffect i s t) (error : s.sess = .error)
    (stays : t.sess = .error) : ErrorStands s t := by
  cases effect with
  | nothing | held | setnp | writeNode | setlp | writeLut | cfg | pushb | eos => exact .refl _
  | error _ _ alive => exact absurd error alive
  | start | abort => simp at stays

theorem Move.errorStands {s t : State} (move : Move s t) (error : s.sess = .error) (stays : t.sess = .error) :
    ErrorStands s t := by
  cases move with
  | wait | accept | refuse | status | lower => exact .refl _
  | walker _ step _ => simp [walkerStep_of_closed, error] at step
  | command w rest _ _ _ h _ =>
    obtain ⟨i, -, effect⟩ | rfl := execute_effect h
    · exact CommandEffect.errorStands (s := { s with accepted := rest }) effect error stays
    · rw [raise_of_error (s := { s with accepted := rest }) error]; exact .refl _
  | take rest _ => exact .takeRecord { s with agenda := rest }
  | reset => cases stays

/-- Settles O35, from the state check in ERROR and move by move. -/
theorem firstErrorSticks : Obligations.FirstErrorSticks := by
  unfold Obligations.FirstErrorSticks
  intro s error
  have closed : s.sess ≠ .run ∧ s.sess ≠ .drain := by simp [error]
  refine ⟨walkerStep_of_closed closed, fun w why illegal => ?_, fun c d ok => ?_, checked_inside_of_error error,
    fun r k q bad => ?_, fun t step stays => ?_⟩
  · rw [execute_of_decode_error ⟨why, illegal⟩, raise_of_error error]
  · rw [exec_pushb_of_ok ok, checked_inside_of_error error]
  · obtain ⟨cfg, -⟩ := cfgWritesConfiguration
    obtain ⟨-, badCfg, -⟩ := cfg r k true q s
    rw [badCfg closed.1 closed.2 rfl bad, raise_of_error error]
  · obtain ⟨m, n, move, rfl⟩ := step_move step
    exact move.errorStands error stays

/-! ### The steps that change SESS (R25) -/

/-- The moves that change SESS. -/
inductive SessChange (s : State) : State → Prop where
  /-- An error of the walker (R211). -/
  | walkerError (e : ErrName) (walkers : e.code.toNat ≤ 5) (alive : s.sess ≠ .error) :
      SessChange s (walkerError e s)
  /-- An error of the oldest accepted command (R211). -/
  | commandError (e : ErrName) (w : Word) (rest : List Word) (commands : 8 ≤ e.code.toNat) (alive : s.sess ≠ .error)
      (head : s.accepted = w :: rest) : SessChange s (raise e w { s with accepted := rest })
  /-- The walker finishes the session (R171). -/
  | finish (act : active s) : SessChange s (finish s)
  /-- START (R142). -/
  | start (rest : List Word) (head : s.accepted = encode .start :: rest) :
      SessChange s (openSession { s with accepted := rest })
  /-- EOS (R144). -/
  | eos (rest : List Word) (head : s.accepted = encode .eos :: rest) (run : s.sess = .run) :
      SessChange s (markEos { s with accepted := rest })
  /-- ABORT (R145). -/
  | abort (rest : List Word) (head : s.accepted = encode .abort :: rest) :
      SessChange s (closeSession { s with accepted := rest })
  /-- An edge with `rst_n` low (R240). -/
  | reset (low : rstN s = false) : SessChange s (resetEdge s)

/-- The codes of the walker's errors are 1 to 5 (R200). -/
theorem ErrName.code_le_five {e : ErrName} (walkers : e.code.toNat < 8) : e.code.toNat ≤ 5 := by
  cases e with
  | illegalCmd | wrongState | badCfg => exact absurd walkers (by decide)
  | truncatedInput | unwrittenNode | lutInvalid | lutBadLen | depthOverflow => decide

theorem SessChange.of_walkerStep {s t : State} (step : walkerStep s = some (.next t)) (changed : s.sess ≠ t.sess) :
    SessChange s t := by
  obtain ⟨a, acts, -⟩ := exists_acts step
  cases walkerStep_outcome step with
  | error e walkers => exact .walkerError e (ErrName.code_le_five walkers) acts.active.alive
  | finish => exact .finish acts.active
  | symbol | descend => exact absurd rfl changed

theorem SessChange.of_execute {w : Word} {rest : List Word} {s t : State} (head : s.accepted = w :: rest)
    (h : execute w { s with accepted := rest } = .next t) (changed : s.sess ≠ t.sess) : SessChange s t := by
  obtain ⟨i, decoded, effect⟩ | rfl := execute_effect h
  · obtain ⟨rfl, -⟩ := encodeOfDecode w i decoded
    cases effect with
    | error e commands alive => exact .commandError e _ rest commands alive head
    | start is => subst is; exact .start rest head
    | eos is run => subst is; exact .eos rest head run
    | abort is => subst is; exact .abort rest head
    | nothing | held | setnp | writeNode | setlp | writeLut | cfg | pushb => exact absurd rfl changed
  · have alive : s.sess ≠ .error := fun error => changed (by rw [raise_sess, error])
    exact .commandError .illegalCmd w rest (by decide) alive head

theorem takeRecord_sess (s : State) : (takeRecord s).sess = s.sess := by
  unfold takeRecord
  split <;> rfl

theorem Move.sessChange {s t : State} (move : Move s t) (changed : s.sess ≠ t.sess) : SessChange s t := by
  cases move with
  | walker _ step _ => exact .of_walkerStep step changed
  | command w rest _ head _ h _ => exact .of_execute head h changed
  | reset low => exact .reset low
  | take rest => exact absurd (takeRecord_sess { s with agenda := rest }).symm changed
  | wait | accept | refuse | status | lower => exact absurd rfl changed

/-- A step that changes SESS is one of the moves that do, after `n` free choices. -/
theorem step_sessChange {s t : State} (h : step s = .next t) (changed : s.sess ≠ t.sess) :
    ∃ m n, SessChange s m ∧ t = { m with draws := m.draws + n } := by
  obtain ⟨m, n, move, rfl⟩ := step_move h
  exact ⟨m, n, move.sessChange changed, rfl⟩

/-- Settles O34: of the moves that change SESS the two kinds of error entry reach ERROR. -/
theorem errorsArePrecise : Obligations.ErrorsArePrecise := by
  unfold Obligations.ErrorsArePrecise
  intro s t _ step alive error
  obtain ⟨m, n, change, rfl⟩ := step_sessChange step (error ▸ alive)
  cases change with
  | walkerError e walkers _ =>
    rw [walkerError, raise_eq, if_neg alive]
    exact ⟨e, s.bitCount, rfl, .inl ⟨walkers, rfl, rfl⟩⟩
  | commandError e w rest commands _ head =>
    rw [raise_eq, if_neg alive]
    exact ⟨e, w, rfl, .inr ⟨commands, head⟩⟩
  | finish | start | eos | abort | reset => cases error

/-- Settles O36: of the moves that change SESS three start in ERROR. -/
theorem errorIsLeftThreeWays : Obligations.ErrorIsLeftThreeWays := by
  unfold Obligations.ErrorIsLeftThreeWays
  intro s t step error left
  obtain ⟨m, n, change, rfl⟩ := step_sessChange step (error ▸ left.symm)
  cases change with
  | start rest head => exact ⟨rfl, rfl, rfl, rfl, by simp [irq], .inl ⟨head, rfl, rfl, rfl⟩⟩
  | abort rest head => exact ⟨rfl, rfl, rfl, rfl, by simp [irq], .inr (.inl ⟨head, rfl, rfl, rfl⟩)⟩
  | reset low => exact ⟨rfl, rfl, rfl, rfl, rfl, .inr (.inr ⟨low, rfl⟩)⟩
  | walkerError _ _ alive | commandError _ _ _ _ alive _ => exact absurd error alive
  | finish act => exact absurd error act.alive
  | eos _ _ run => simp [run] at error

/-- The record of the end of a session carries the low 30 bits of SYM_COUNT (R171). -/
theorem finish_appends_end (s : State) : (finish s).outq = s.outq ++ [.fin (s.symCount.extractLsb' 0 30)] := by
  have low : s.symCount.setWidth 30 = s.symCount.extractLsb' 0 30 := BitVec.setWidth_eq_extractLsb' (by decide)
  rw [← low]
  rfl

/-- Settles O38: `irq` is 1 in DONE and ERROR only, and of the moves that change SESS to one of them each appends its
record. -/
theorem irqRisesWithItsRecord : Obligations.IrqRisesWithItsRecord := by
  unfold Obligations.IrqRisesWithItsRecord
  intro s t _ step _ high changed
  obtain ⟨-, ended⟩ := irq_iff.mp high
  obtain ⟨m, n, change, rfl⟩ := step_sessChange step changed
  cases change with
  | finish => exact .inl ⟨rfl, finish_appends_end s⟩
  | walkerError e _ alive => exact .inr (by simp [walkerError, alive])
  | commandError e w rest _ alive _ => exact .inr (by simp [alive])
  | start | eos | abort | reset => obtain ended | ended := ended <;> cases ended

end Sys2Proof.Machine

/-! ## Reset (R240 to R244) -/
namespace Sys2Proof.Machine

/-- Settles O41: the registers and the two special offsets by evaluation, the offsets from 2 on one by one. -/
theorem resetValues : Obligations.ResetValues := by
  unfold Obligations.ResetValues
  refine ⟨rfl, rfl, rfl, rfl, rfl, rfl, rfl, rfl, rfl, rfl, rfl, rfl, rfl, fun _ => rfl,
    fun _ => rfl, rfl, rfl, rfl, ?_⟩
  decide

/-- A move with `rst_n` high is that `rst_n` goes low, or it leaves the next reset of the agenda ahead: an action of the
host that is done is no reset (R240, log 5). -/
theorem Move.lowers_or_keeps_ahead {s t : State} (move : Move s t) (high : rstN s = true) :
    (∃ more rest, afterReset s.agenda = some (more, rest) ∧ t = lowerRst more rest s) ∨
      afterReset t.agenda = afterReset s.agenda := by
  cases move with
  | lower more rest ahead => exact .inl ⟨more, rest, ahead, rfl⟩
  | wait | refuse => exact .inr rfl
  | walker _ step _ => exact .inr (by rw [walkerStep_toOutside step])
  | command w rest _ _ _ effect _ => exact .inr (by rw [execute_agenda effect])
  | accept w rest head | status a rest head => exact .inr (by rw [head]; rfl)
  | take rest head => exact .inr (by rw [takeRecord_agenda, head]; rfl)
  | reset low => simp [high] at low

/-- A step after which the next reset has left the agenda is that `rst_n` goes low (R240). -/
theorem step_lowers {s t : State} {more : Nat} {rest : List HostEvent} (high : rstN s = true)
    (ahead : afterReset s.agenda = some (more, rest)) (h : step s = .next t) (gone : t.agenda = rest) :
    t = { lowerRst more rest s with draws := t.draws } := by
  obtain ⟨m, n, move, rfl⟩ := step_move h
  obtain ⟨more', rest', ahead', rfl⟩ | keeps := move.lowers_or_keeps_ahead high
  · obtain ⟨rfl, rfl⟩ := Prod.mk.inj (Option.some.inj (ahead.symm.trans ahead'))
    rfl
  · replace gone : m.agenda = rest := gone
    rw [gone, ahead] at keeps
    exact absurd (afterReset_length keeps) (Nat.lt_irrefl _)

/-- Where the free choice says so, the reset that is to come strikes first (R243, log 5). -/
theorem step_of_resetFirst {s : State} {more : Nat} {rest : List HostEvent} (high : rstN s = true)
    (ahead : afterReset s.agenda = some (more, rest)) (first : Config.resetFirst s.draws = true) :
    ∃ n, step s = .next { lowerRst more rest s with draws := n } := by
  rw [step_of_high high, portsMove, first, resetMove, ahead]
  match choose (Config.hostFirst s.draws) (hostMove s)
      (choose (Config.effectFirst s.draws) (portMove s) (walkerMove s)) with
  | none => exact ⟨s.draws, rfl⟩
  | some _ => exact ⟨s.draws + 1, rfl⟩

/-- `out_data` has no value while `rst_n` is low (R240, log 13). -/
theorem outData_of_low {s : State} (low : rstN s = false) : outData s = none := by
  rw [outData, outValid_of_low low]; rfl

/-- Settles O42: an edge with `rst_n` low, and the three things a reset to come can do to a step. -/
theorem resetEventRestoresReset : Obligations.ResetEventRestoresReset := by
  unfold Obligations.ResetEventRestoresReset
  refine ⟨fun s low => ?_, fun s before rest more high agenda noReset => ?_⟩
  · exact ⟨cmdReady_of_low low, outValid_of_low low, outData_of_low low, resetEdge s, step_of_low low,
      Nat.sub_le .., rfl⟩
  · have ahead : afterReset s.agenda = some (more, rest) := afterReset_eq_some.mpr ⟨before, agenda, noReset⟩
    refine ⟨fun t h gone => step_lowers high ahead h gone,
      fun host port walker => (waits_of_no_move host port walker).2.2 more rest high ahead, ?_⟩
    cases first : Config.resetFirst s.draws with
    | false => exact .inr rfl
    | true =>
      obtain ⟨n, h⟩ := step_of_resetFirst high ahead first
      exact .inl ⟨_, h, rfl⟩

end Sys2Proof.Machine

/-! ## The OUT port (R250) -/
namespace Sys2Proof.Machine

theorem outValid_iff {s : State} : outValid s = true ↔ rstN s = true ∧ s.outq ≠ [] := by
  rw [outValid, Bool.and_eq_true, Bool.not_eq_true', List.isEmpty_eq_false_iff]

theorem outData_of_cons {s : State} {r : Record} {rs : List Record} (high : rstN s = true) (q : s.outq = r :: rs) :
    outData s = some r.word := by
  have valid : outValid s = true := outValid_iff.mpr ⟨high, by simp [q]⟩
  rw [outData, if_pos valid, q]
  rfl

theorem takeRecord_of_cons {s : State} {r : Record} {rs : List Record} (q : s.outq = r :: rs) :
    takeRecord s = { s with outq := rs, taken := s.taken ++ [r] } := by simp only [takeRecord, q]

theorem takeRecord_of_nil {s : State} (q : s.outq = []) : takeRecord s = s := by simp only [takeRecord, q]

theorem hostMove_of_outReady {s : State} {rest : List HostEvent} (head : s.agenda = .outReady :: rest) :
    hostMove s = some (.next (takeRecord { s with agenda := rest })) := by simp only [hostMove, head]

/-- Where the host has a move, a step is that move, a walker step, the effect of an accepted word, or a reset. -/
theorem step_of_hostMove {s h t : State} (host : hostMove s = some (.next h)) (hs : step s = .next t) :
    t = { h with draws := t.draws } ∨ ByWalker s t ∨ ByEffect s t ∨ ByReset s t := by
  obtain ⟨-, -, -, everyStep⟩ := idleBlockWaits
  obtain reset | ⟨h', host', ht⟩ | effect | walker | ⟨-, -, still, -⟩ := everyStep s t hs
  · exact .inr (.inr (.inr reset))
  · obtain rfl := Host.Outcome.next.inj (Option.some.inj (host.symm.trans host'))
    exact .inl ht
  · exact .inr (.inr (.inl effect))
  · exact .inr (.inl walker)
  · simp [host] at still

/-- Settles O43: the host's move is the take, which hands over the head record or, with OUTQ empty, nothing. -/
theorem outPortTakesHead : Obligations.OutPortTakesHead := by
  unfold Obligations.OutPortTakesHead
  intro s rest head
  have host := hostMove_of_outReady head
  refine ⟨outValid_iff, fun r rs q => ?_, fun q => ?_⟩
  · rw [takeRecord_of_cons (s := { s with agenda := rest }) q] at host
    exact ⟨fun high => outData_of_cons high q, fun walker port => stepsTo_of_hostMove host port walker,
      fun t h => step_of_hostMove host h⟩
  · rw [takeRecord_of_nil (s := { s with agenda := rest }) q] at host
    exact ⟨fun walker port => stepsTo_of_hostMove host port walker, fun t h => step_of_hostMove host h⟩

end Sys2Proof.Machine

/-! ## The words that hold the port (R249, R251, R253, R254) -/
namespace Sys2Proof.Machine

/-! ### A waiting word closes the port -/

/-- A command that may not overlap the walker has no effect before the walker is quiescent (R254). -/
theorem commandMove_of_busy {w : Word} {s : State} (busy : quiescent s = false) (noOverlap : ¬ mayOverlap w s = true) :
    commandMove w s = none := if_neg (by simp [busy, noOverlap])

/-- An accepted word other than a NOP that cannot take effect now is one that waits, wherever it stands (R254). -/
theorem noneWaits_of_waiting {s : State} {w : Word} {ws : List Word} (mem : w ∈ ws) (waits : commandMove w s = none)
    (notNop : decode w ≠ .ok .nop) : noneWaits s ws = false := by
  induction ws with
  | nil => cases mem
  | cons v vs ih =>
    rw [noneWaits, Bool.and_eq_false_iff]
    obtain rfl | behind := List.mem_cons.mp mem
    · exact .inl (by rw [waits]; rfl)
    refine .inr ?_
    split
    · refine List.all_eq_false.mpr ⟨w, behind, fun nop => notNop ?_⟩
      rw [eq_of_beq nop]
      exact decodeOfEncode .nop rfl
    · exact ih behind

theorem portOpen_of_waiting {s : State} {w : Word} (mem : w ∈ s.accepted) (waits : commandMove w s = none)
    (notNop : decode w ≠ .ok .nop) : portOpen s = false := noneWaits_of_waiting mem waits notNop

theorem cmdReady_of_closed {s : State} (closed : portOpen s = false) (v : Word) : cmdReady v s = false := by
  simp [cmdReady, closed]

/-- A host that is done, or waits to write at a closed port, has no move (R249). -/
theorem hostMove_of_closed {s : State} (closed : portOpen s = false)
    (writes : s.agenda = [] ∨ ∃ w es, s.agenda = .command w :: es) : hostMove s = none := by
  obtain done | ⟨w, es, head⟩ := writes
  · exact hostMove_of_done (.inl done)
  · simp [hostMove, head, closed]

/-! ### The accepted words after a move -/

/-- What a move can do to the accepted words: nothing, add one, run the oldest, or lose them all. -/
theorem Move.accepted_cases {s t : State} (move : Move s t) :
    t.accepted = s.accepted ∨
    (∃ w, cmdReady w s = true ∧ t.accepted = s.accepted ++ [w]) ∨
    (∃ w rest, s.accepted = w :: rest ∧
      (quiescent { s with accepted := rest } = true ∨ mayOverlap w { s with accepted := rest } = true) ∧
      execute w { s with accepted := rest } = .next t) ∨
    (rstN s = false ∧ t.accepted = []) := by
  cases move with
  | wait | refuse | status | lower => exact .inl rfl
  | walker _ step _ => exact .inl (by rw [walkerStep_toOutside step])
  | take rest => exact .inl (takeRecord_accepted { s with agenda := rest })
  | accept w rest _ ready => exact .inr (.inl ⟨w, ready, rfl⟩)
  | command w rest _ head when effect _ => exact .inr (.inr (.inl ⟨w, rest, head, when, effect⟩))
  | reset low => exact .inr (.inr (.inr ⟨low, rfl⟩))

/-- A command puts at most its own word back (R162, log 8). -/
theorem length_accepted_of_execute {w : Word} {s t : State} (h : execute w s = .next t) :
    t.accepted.length ≤ s.accepted.length + 1 := by
  obtain ⟨i, -, effect⟩ | rfl := execute_effect h
  · cases effect with
    | held => exact Nat.le_refl _
    | error => rw [raise_accepted]; exact Nat.le_succ _
    | nothing | setnp | writeNode | setlp | writeLut | cfg | start | pushb | eos | abort => exact Nat.le_succ _
  · rw [raise_accepted]; exact Nat.le_succ _

/-- With `cmd_ready` at 0 for every word, a move adds no accepted word. -/
theorem Move.length_accepted {s t : State} (move : Move s t) (unready : ∀ v, cmdReady v s = false) :
    t.accepted.length ≤ s.accepted.length := by
  obtain same | ⟨w, ready, -⟩ | ⟨w, rest, head, -, effect⟩ | ⟨-, lost⟩ := move.accepted_cases
  · rw [same]
  · simp [unready] at ready
  · rw [head]; exact length_accepted_of_execute effect
  · rw [lost]; exact Nat.zero_le _

/-! ### The hold rule (R254) -/

/-- A PUSHB or an EOS that has its effect in RUN raises no error (R143, R144). -/
theorem execute_not_error {w : Word} {s t : State} (is : (∃ c d, decode w = .ok (.pushb c d)) ∨ decode w = .ok .eos)
    (run : s.sess = .run) (h : execute w s = .next t) : t.sess ≠ .error := by
  obtain ⟨c, d, pushb⟩ | eos := is
  · obtain rfl := Host.Outcome.next.inj ((execute_pushb pushb run).symm.trans h)
    simp [run]
  · obtain rfl := Host.Outcome.next.inj ((execute_eos eos run).symm.trans h)
    simp

/-- A command that has its effect has it at quiescence and outside DRAIN, or is a NOP, or a PUSHB or an EOS in RUN that
raises no error (R254). -/
theorem hold_rule_of_effect {w : Word} {s t : State} (inv : s.Inv) (when : quiescent s = true ∨ mayOverlap w s = true)
    (h : execute w s = .next t) :
    (quiescent s = true ∧ s.sess ≠ .drain) ∨ decode w = .ok .nop ∨
    (s.sess = .run ∧ t.sess ≠ .error ∧ ((∃ c d, decode w = .ok (.pushb c d)) ∨ decode w = .ok .eos)) := by
  obtain quiet | overlap := when
  · exact .inl ⟨quiet, not_drain_of_quiescent inv quiet⟩
  obtain nop | ⟨is, run, -⟩ := mayOverlap_iff.mp overlap
  · exact .inr (.inl nop)
  · exact .inr (.inr ⟨run, execute_not_error is run h, is⟩)

/-- Settles O46: only the effect of the oldest word takes it from the accepted words; a word that waits closes the
port. -/
theorem holdRule : Obligations.HoldRule := by
  unfold Obligations.HoldRule
  refine ⟨fun s t w rest inv head step noReset gone => ?_, fun s t w mem busy holds => ?_⟩
  · obtain ⟨m, n, move, rfl⟩ := step_move step
    replace gone : m.accepted = rest := gone
    obtain same | ⟨v, -, longer⟩ | ⟨v, rest', head', when, effect⟩ | ⟨low, -⟩ := move.accepted_cases
    · exact absurd (gone.symm.trans (same.trans head)).symm (List.cons_ne_self w rest)
    · have length := congrArg List.length (gone.symm.trans longer)
      rw [head, List.length_append, List.length_cons] at length
      omega
    · obtain ⟨rfl, rfl⟩ := List.cons.inj (head.symm.trans head')
      have rule := hold_rule_of_effect (s := { s with accepted := rest }) inv.congr when effect
      rwa [quiescent_block (s := { s with accepted := rest }) (t := s) rfl] at rule
    · exact absurd (.inl low) noReset
  · have noOverlap : ¬ mayOverlap w s = true := fun overlap =>
      holds ((mayOverlap_iff.mp overlap).imp_right fun ⟨is, run, _⟩ => ⟨run, is⟩)
    have closed : portOpen s = false :=
      portOpen_of_waiting mem (commandMove_of_busy busy noOverlap) fun nop => holds (.inl nop)
    refine ⟨cmdReady_of_closed closed, fun step => ?_⟩
    obtain ⟨m, n, move, rfl⟩ := step_move step
    exact move.length_accepted (cmdReady_of_closed closed)

/-! ### The hang (R253) -/

/-- While the walker is not quiescent, a PUSHB for which BITQ lacks the places waits: in RUN it does not fit, and
otherwise it may not overlap (R251, R254). -/
theorem commandMove_pushb_of_full {cnt : BitVec 5} (ok : pushCountOk cnt = true) (data : BitVec 16) {s : State}
    (busy : quiescent s = false) (noRoom : Config.bitqDepth < s.bitq.length + cnt.toNat) :
    commandMove (encode (.pushb cnt data)) s = none := by
  have decoded : decode (encode (.pushb cnt data)) = .ok (.pushb cnt data) := decodeOfEncode _ ok
  by_cases run : s.sess = .run
  · obtain ⟨least, -⟩ := pushCountOk_iff.mp ok
    exact commandMove_eq_none_of_not_fits (execute_pushb decoded run)
      (not_fits_pushBits (by rwa [length_streamBits]) (by rwa [length_streamBits]))
  · refine commandMove_of_busy busy fun overlap => ?_
    obtain nop | ⟨-, running, -⟩ := mayOverlap_iff.mp overlap
    · simp [decoded] at nop
    · exact run running

/-- A walker step that would emit into a full OUTQ is no move (R251). -/
theorem walkerMove_of_full {s u : State} (step : walkerStep s = some (.next u))
    (emits : s.outq.length < u.outq.length) (full : Config.outqDepth ≤ s.outq.length) : walkerMove s = none :=
  (walkerMove_of_step step).trans (if_neg (by omega))

/-- Settles O49: the PUSHB waits and closes the port, the walker stalls, and the host has nothing else to do. -/
theorem hostMustDrainOut : Obligations.HostMustDrainOut := by
  unfold Obligations.HostMustDrainOut
  intro s u cnt data rest ok head step emits full noRoom
  have busy : quiescent s = false := by rw [quiescent, step]; rfl
  have notNop : decode (encode (.pushb cnt data)) ≠ .ok .nop := by simp [decodeOfEncode (.pushb cnt data) ok]
  have closed : portOpen s = false :=
    portOpen_of_waiting (by simp [head]) (commandMove_pushb_of_full ok data busy noRoom) notNop
  have port : portMove s = none := by
    rw [portMove, head]
    exact commandMove_pushb_of_full ok data
      ((quiescent_block (s := { s with accepted := rest }) (t := s) rfl).trans busy) noRoom
  exact ⟨cmdReady_of_closed closed,
    fun writes => waits_of_no_move (hostMove_of_closed closed writes) port (walkerMove_of_full step emits full)⟩

end Sys2Proof.Machine

/-! ## The written-out words of the test vectors (R91 to R94, R97) -/
namespace Sys2Proof

/-- The word that the encoder gives a well-formed command decodes to it, however the word is written. -/
theorem decode_of_encode_eq {w : Word} {i : Instr} (word : encode i = w) (wf : i.wellFormed = true) :
    decode w = .ok i :=
  word ▸ decodeOfEncode i wf

/-- The reason of a word whose opcode byte names no row (R94). -/
theorem decode_of_ofByte_none {w : Word} (noRow : Opcode.ofByte (field w 24 8) = none) :
    decode w = .error .reservedOpcode := by
  rw [decode, noRow]

/-- The reason of a word whose opcode byte names a row that it does not select (R93). -/
theorem decode_of_not_selects {op : Opcode} {w : Word} (names : Opcode.ofByte (field w 24 8) = some op)
    (other : op.selects w = false) : decode w = .error (.reservedBit op) := by
  simp [decode, names, other]

/-- Settles O5: six of the words are the encoder's, one has a reserved bit of PUSHB at 1, and one has no row's opcode. -/
theorem writtenOutWordsDecode : Obligations.WrittenOutWordsDecode := by
  unfold Obligations.WrittenOutWordsDecode
  refine ⟨?nop, ?setnp, ?wni, ?wll, ?cfg, ?pushb, ?reservedBit, ?reservedOpcode⟩
  case reservedBit => exact decode_of_not_selects rfl rfl
  case reservedOpcode => exact decode_of_ofByte_none rfl
  all_goals exact decode_of_encode_eq rfl rfl

end Sys2Proof
